-- ==== Sys2Proof/Word.lean ====
section
/-! DEFINITION. The word types of D3NET-RTU (spec/00_scope.md rules R8 and R10). -/

namespace Sys2Proof

/-- A value on the host port and a command word: 32 bits (10_state, "Every register is 32 bits wide on the
host port"; 30_encoding R90). -/
abbrev Word := BitVec 32

/-- A register word, one cell of WBUF, and the CRC: 16 bits (00_scope R8). -/
abbrev RegWord := BitVec 16

/-- A byte of a frame, one cell of TXBUF or RXBUF (00_scope R8). -/
abbrev Byte := BitVec 8

end Sys2Proof
end

