-- ==== Sys2Proof/Syntax.lean ====
section
/-! DEFINITION. The commands of D3NET-RTU (spec/30_encoding.md rule R91, one constructor per row of
spec/opcode_table.json), the fields of a command word (rule R90), and the steps of the four agents
(spec/10_state.md rule R50). -/

namespace Sys2Proof

/-- A command: what one legal word written to CMD means (30_encoding R91). `de` is the dirty enable bit DE,
which only the set commands have; `imm` is IMM8, which only CRC_BYTE has (R90). -/
inductive Instr where
  /-- NOP, OPC 0x00 (40_control R125). -/
  | nop
  /-- CRC_INIT, OPC 0x01 (43_crc R203). -/
  | crcInit
  /-- CRC_BYTE, OPC 0x02 (43_crc R204). -/
  | crcByte (imm : Byte)
  /-- GET_BIT, OPC 0x10 (41_codec R135). -/
  | getBit
  /-- SET_BIT, OPC 0x11 (41_codec R136). -/
  | setBit (de : Bool)
  /-- GET_UNS, OPC 0x12 (41_codec R137). -/
  | getUns
  /-- SET_UNS, OPC 0x13 (41_codec R138). -/
  | setUns (de : Bool)
  /-- GET_SGN, OPC 0x14 (41_codec R141). -/
  | getSgn
  /-- SET_SGN, OPC 0x15 (41_codec R142). -/
  | setSgn (de : Bool)
  /-- GET_TEMP, OPC 0x16 (41_codec R146). -/
  | getTemp
  /-- SET_TEMP, OPC 0x17 (41_codec R147). -/
  | setTemp (de : Bool)
  /-- VIEW_GET, OPC 0x18 (42_views R175). -/
  | viewGet
  /-- VIEW_SET, OPC 0x19 (42_views R176). -/
  | viewSet (de : Bool)
  /-- GRP_SETUP, OPC 0x1A (42_views R190). -/
  | grpSetup
  /-- RTU_RD_HOLD, OPC 0x20 (44_rtu R233). -/
  | rtuRdHold
  /-- RTU_RD_INPUT, OPC 0x21 (44_rtu R234). -/
  | rtuRdInput
  /-- RTU_WR_MULTI, OPC 0x22 (44_rtu R235). -/
  | rtuWrMulti
  deriving DecidableEq, Repr

/-- The fields of a 32-bit command word, `rrrrrrrr iiiiiiii rrrrrrrd oooooooo` (30_encoding R90). -/
structure CommandFields where
  /-- bits [7:0], OPC -/
  opc     : BitVec 8
  /-- bit [8], DE -/
  de      : Bool
  /-- bits [15:9], reserved -/
  resLow  : BitVec 7
  /-- bits [23:16], IMM8 -/
  imm     : Byte
  /-- bits [31:24], reserved -/
  resHigh : BitVec 8
  deriving DecidableEq, Repr

/-- One step of one of the four agents (10_state R50). An address is a byte offset in the host window
(20_memory R60); `size` is the number of bytes the access moves, which the spec defines for 4 only (R63). -/
inductive Event where
  /-- host: `MemWrite(addr, size, value)` -/
  | hostWrite (addr size : Nat) (value : Word)
  /-- host: `MemRead(addr, size)` -/
  | hostRead (addr size : Nat)
  /-- serial port: `ser_accept(n)`, the port's answer to the offered frame (44_rtu R242) -/
  | serAccept (n : Nat)
  /-- serial port: `ser_txdone`, transmit complete (44_rtu R244) -/
  | serTxdone
  /-- serial port: `ser_rxbyte(b)`, one received byte (44_rtu R246) -/
  | serRxbyte (b : Byte)
  /-- time base: `tick` (10_state R52) -/
  | tick
  /-- reset input: `reset` (70_reset R310) -/
  | reset
  deriving DecidableEq, Repr, Inhabited

end Sys2Proof
end

