-- ==== Sys2Proof/WellFormed.lean ====
section
/-! DEFINITION. When the fields of a command word are legal: the four conditions of spec/30_encoding.md rules
R90 to R93, one check each. -/

namespace Sys2Proof

namespace CommandFields

/-- Bits [15:9] and [31:24] "must be 0" (30_encoding R90). -/
def reservedZero (f : CommandFields) : Bool :=
  f.resLow == 0 && f.resHigh == 0

/-- OPC is in the table of 30_encoding R91: not 0x03..0x0F, 0x1B..0x1F or 0x23..0xFF (R93). -/
def opcodeAssigned (f : CommandFields) : Bool :=
  let o := f.opc.toNat
  o ≤ 0x02 || (0x10 ≤ o && o ≤ 0x1A) || (0x20 ≤ o && o ≤ 0x22)

/-- DE is "allowed only on SET_BIT, SET_UNS, SET_SGN, SET_TEMP and VIEW_SET" (30_encoding R90). -/
def dirtyEnableAllowed (f : CommandFields) : Bool :=
  !f.de || [0x11, 0x13, 0x15, 0x17, 0x19].contains f.opc.toNat

/-- IMM8 is "allowed nonzero only on CRC_BYTE" (30_encoding R90). -/
def immediateAllowed (f : CommandFields) : Bool :=
  f.imm == 0 || f.opc.toNat == 0x02

/-- The fields of a legal command word (30_encoding R92 and R93). -/
def wf (f : CommandFields) : Bool :=
  f.reservedZero && f.opcodeAssigned && f.dirtyEnableAllowed && f.immediateAllowed

end CommandFields

end Sys2Proof
end

