-- ==== Sys2Proof/Decode.lean ====
section
/-! DEFINITION. The decoder of command words (spec/30_encoding.md rules R90 to R93), total on all 2^32 words and
rejecting by name, and the encoder written from the same tables. -/

namespace Sys2Proof

/-- Why a word is ILLEGAL: the four cases of 30_encoding R93. The block reports all four alike, as
CRES = ILLEGAL (40_control R123). -/
inductive IllegalWord where
  /-- a nonzero bit in [15:9] or [31:24] -/
  | reservedBits
  /-- an unassigned opcode -/
  | unassignedOpcode
  /-- DE = 1 on a command that does not allow it -/
  | dirtyEnableNotAllowed
  /-- nonzero IMM8 on any command but CRC_BYTE -/
  | immediateNotAllowed
  deriving DecidableEq, Repr

/-- The fields of a command word (30_encoding R90). -/
def fieldsOfWord (w : Word) : CommandFields where
  opc     := w.extractLsb' 0 8
  de      := w.getLsbD 8
  resLow  := w.extractLsb' 9 7
  imm     := w.extractLsb' 16 8
  resHigh := w.extractLsb' 24 8

/-- The word whose fields are `f` (30_encoding R90): each field at its place. -/
def wordOfFields (f : CommandFields) : Word :=
  f.opc.setWidth 32 ||| (BitVec.ofBool f.de).setWidth 32 <<< 8 ||| f.resLow.setWidth 32 <<< 9 |||
    f.imm.setWidth 32 <<< 16 ||| f.resHigh.setWidth 32 <<< 24

/-- A command that allows neither DE nor IMM8 (30_encoding R91, R92). -/
def decodePlain (i : Instr) (f : CommandFields) : Except IllegalWord Instr :=
  if f.de then .error .dirtyEnableNotAllowed
  else if f.imm ≠ 0 then .error .immediateNotAllowed
  else .ok i

/-- A command that allows DE and not IMM8 (30_encoding R91, R92). -/
def decodeWithDirty (mk : Bool → Instr) (f : CommandFields) : Except IllegalWord Instr :=
  if f.imm ≠ 0 then .error .immediateNotAllowed
  else .ok (mk f.de)

/-- A command that allows IMM8 and not DE (30_encoding R91, R92). -/
def decodeWithImm (mk : Byte → Instr) (f : CommandFields) : Except IllegalWord Instr :=
  if f.de then .error .dirtyEnableNotAllowed
  else .ok (mk f.imm)

/-- The opcode map of 30_encoding R91. -/
def decodeOpcode (f : CommandFields) : Except IllegalWord Instr :=
  match f.opc.toNat with
  | 0x00 => decodePlain .nop f
  | 0x01 => decodePlain .crcInit f
  | 0x02 => decodeWithImm .crcByte f
  | 0x10 => decodePlain .getBit f
  | 0x11 => decodeWithDirty .setBit f
  | 0x12 => decodePlain .getUns f
  | 0x13 => decodeWithDirty .setUns f
  | 0x14 => decodePlain .getSgn f
  | 0x15 => decodeWithDirty .setSgn f
  | 0x16 => decodePlain .getTemp f
  | 0x17 => decodeWithDirty .setTemp f
  | 0x18 => decodePlain .viewGet f
  | 0x19 => decodeWithDirty .viewSet f
  | 0x1A => decodePlain .grpSetup f
  | 0x20 => decodePlain .rtuRdHold f
  | 0x21 => decodePlain .rtuRdInput f
  | 0x22 => decodePlain .rtuWrMulti f
  | _    => .error .unassignedOpcode

/-- `decode` of 30_encoding R92: an instruction, or the reason the word is ILLEGAL. -/
def decode (w : Word) : Except IllegalWord Instr :=
  let f := fieldsOfWord w
  if f.resLow ≠ 0 ∨ f.resHigh ≠ 0 then .error .reservedBits
  else decodeOpcode f

/-- The opcode of a command (30_encoding R91). -/
def Instr.opcode : Instr → BitVec 8
  | .nop        => 0x00
  | .crcInit    => 0x01
  | .crcByte _  => 0x02
  | .getBit     => 0x10
  | .setBit _   => 0x11
  | .getUns     => 0x12
  | .setUns _   => 0x13
  | .getSgn     => 0x14
  | .setSgn _   => 0x15
  | .getTemp    => 0x16
  | .setTemp _  => 0x17
  | .viewGet    => 0x18
  | .viewSet _  => 0x19
  | .grpSetup   => 0x1A
  | .rtuRdHold  => 0x20
  | .rtuRdInput => 0x21
  | .rtuWrMulti => 0x22

/-- The DE bit of a command; 0 where DE is not allowed (30_encoding R90). -/
def Instr.dirtyEnable : Instr → Bool
  | .setBit de | .setUns de | .setSgn de | .setTemp de | .viewSet de => de
  | .nop | .crcInit | .crcByte _ | .getBit | .getUns | .getSgn | .getTemp | .viewGet | .grpSetup
  | .rtuRdHold | .rtuRdInput | .rtuWrMulti => false

/-- The IMM8 field of a command; 0 where IMM8 is not allowed (30_encoding R90, R95). -/
def Instr.immediate : Instr → Byte
  | .crcByte imm => imm
  | .nop | .crcInit | .getBit | .setBit _ | .getUns | .setUns _ | .getSgn | .setSgn _ | .getTemp
  | .setTemp _ | .viewGet | .viewSet _ | .grpSetup | .rtuRdHold | .rtuRdInput | .rtuWrMulti => 0

/-- The fields of a command's word: reserved bits 0 (30_encoding R90). -/
def Instr.fields (i : Instr) : CommandFields where
  opc     := i.opcode
  de      := i.dirtyEnable
  resLow  := 0
  imm     := i.immediate
  resHigh := 0

/-- A command is well-formed when the fields of its word are legal. -/
def Instr.wf (i : Instr) : Bool := i.fields.wf

/-- The command word of a command (30_encoding R90, R91, R105). -/
def encode (i : Instr) : Word := wordOfFields i.fields

/-- The instruction read from an opcode-table word of `nbits` bits with value `w`; a command word is one 32-bit
word, written whole to CMD (30_encoding R103), and bits above `nbits` are 0. -/
def decodeTableWord (nbits w : Nat) : Option Instr :=
  match decode (BitVec.ofNat 32 (w % 2 ^ nbits)) with
  | .ok i    => some i
  | .error _ => none

end Sys2Proof
end

