-- ==== Sys2Proof/Config.lean ====
section
/-! DEFINITION. What is fixed for one block: the parameters of spec/00_scope.md rule R7, those with a default as
a structure of plain data and the OPEN ones as constants with no body, and the free draws of the environment. -/

namespace Sys2Proof

/-- The parameters of 00_scope R7 that have a default. "A model takes each as an argument, with the default
given here": a State carries one `Params`, which no step changes (log 4). -/
structure Params where
  /-- MAX_READ_COUNT: largest COUNT accepted by RTU_RD_HOLD and RTU_RD_INPUT -/
  maxReadCount  : Nat := 125
  /-- MAX_WRITE_COUNT: largest COUNT accepted by RTU_WR_MULTI -/
  maxWriteCount : Nat := 123
  /-- TIMEOUT_RESET: reset value of TIMEOUT, in ticks -/
  timeoutReset  : BitVec 16 := 1000
  /-- HAS_TXEN: the transmit-enable output exists -/
  hasTxen       : Bool := true
  /-- HAS_RXEN: the receive-enable output exists -/
  hasRxen       : Bool := true
  /-- FILTER_SET_CODE: the code VIEW_SET writes to a filter field for "set" -/
  filterSetCode : BitVec 4 := 1
  deriving DecidableEq, Repr

/-- The constraint column of 00_scope R7: 1..125, 1..123, 1..65535 and 1..15. -/
abbrev Params.wf (p : Params) : Prop :=
  (1 ≤ p.maxReadCount ∧ p.maxReadCount ≤ 125) ∧ (1 ≤ p.maxWriteCount ∧ p.maxWriteCount ≤ 123) ∧
    p.timeoutReset ≠ 0 ∧ p.filterSetCode ≠ 0

/-- Every parameter at its default (00_scope R7). -/
abbrev Params.default : Params := {}

namespace Config

/-- WBUF_WORDS: words in WBUF, fixed at 128 (00_scope R7, 10_state R42). -/
abbrev wbufWords : Nat := 128

/-- RTU_BUF_BYTES: bytes in TXBUF and in RXBUF, fixed at 256 (00_scope R7, 10_state R43 and R44). -/
abbrev rtuBufBytes : Nat := 256

/-- HOST_BASE, OPEN: where the host window sits in a system address map (20_memory R60, I14; log 5). -/
opaque hostBase : Nat

/-- TXEN_ACTIVE_HIGH, OPEN: the electrical polarity of the transmit-enable line (10_state R48, I13; log 5). -/
opaque txenActiveHigh : Bool

/-- RXEN_ACTIVE_HIGH, OPEN: the electrical polarity of the receive-enable line (10_state R48, I13; log 5). -/
opaque rxenActiveHigh : Bool

/-- TICK, OPEN: the real duration of one time-base tick, nominally 1 ms; no rule depends on it
(00_scope R7, I15; log 5). In nanoseconds, so that any nominal value can be written. -/
opaque tickNanoseconds : Nat

/-- The environment's draw when no step is listed in `State.inbox`: any step of any agent, with any value
(10_state R50 and R51, I16: "any value"; log 2). A free value: nothing can be proved of it. -/
opaque envDraw : Nat → Event

end Config

end Sys2Proof
end

