-- ==== Sys2Proof/Machine/State.lean ====
section
/-! DEFINITION. The state of D3NET-RTU as plain data (spec/10_state.md rules R20 to R44, spec/70_reset_and_hazards.md
rule R310), the reasons a step can stop, and the state after reset. -/

namespace Sys2Proof.Machine

/-- The framer's `state` (10_state R41). Codes 4..7 never occur (R23; log 10). -/
inductive FramerState where
  /-- IDLE (0): no transaction -/
  | idle
  /-- TX_WRITE (1): the frame has been offered to the serial port -/
  | txWrite
  /-- TX_WAIT (2): waiting for transmit-complete -/
  | txWait
  /-- RX (3): accumulating the response -/
  | rx
  deriving DecidableEq, Repr

/-- The result codes STATUS.RES holds (60_exceptions R280). -/
inductive ResCode where
  | ok | errArg | errWriteCount | errTimeout | errFrame | errCrc | pending
  deriving DecidableEq, Repr

/-- The dispatch results STATUS.CRES holds (60_exceptions R281). -/
inductive CresCode where
  | ok | errArg | illegal | busyRej
  deriving DecidableEq, Repr

/-- LAT.op (10_state R40). -/
inductive RtuOp where
  | read | write
  deriving DecidableEq, Repr

/-- The framer's latches, loaded when an RTU command is accepted (10_state R40). -/
structure Latches where
  op      : RtuOp
  fc      : BitVec 8
  slave   : BitVec 8
  addr    : BitVec 16
  count   : BitVec 8
  xbase   : BitVec 7
  timeout : BitVec 16
  deriving DecidableEq, Repr

/-- A buffer of `w`-bit cells: (index, value) pairs, indices strictly rising, no value 0; an unlisted cell reads
0, its reset value (10_state R42 to R44; log 8). `Memory 8` is a list of Host.Cell. -/
abbrev Memory (w : Nat) := List (Nat × BitVec w)

/-- The state of the block, and of the model around it. -/
structure State where
  /-- the parameters of 00_scope R7, constant (R46; log 4); the MODEL's field -/
  params    : Params
  /-- the steps the environment takes next, oldest first (R50; log 1); the MODEL's field -/
  inbox     : List Event
  /-- the counter the environment's free draws are taken at (log 2); the MODEL's field -/
  drawIx    : Nat
  /-- the word the last host read answered (R45; log 3); the MODEL's field -/
  hostRdata : Word
  /-- `state`, seen as STATUS.STATE and STATUS.BUSY (R23, R41) -/
  framer    : FramerState
  /-- STATUS.RES (R23) -/
  res       : ResCode
  /-- STATUS.CRES (R23) -/
  cres      : CresCode
  /-- SLAVE (R24) -/
  slave     : BitVec 8
  /-- ADDR (R25) -/
  addr      : BitVec 16
  /-- COUNT (R26) -/
  count     : BitVec 8
  /-- XBASE (R27) -/
  xbase     : BitVec 7
  /-- TIMEOUT (R28) -/
  timeout   : BitVec 16
  /-- ELAPSED (R29) -/
  elapsed   : BitVec 16
  /-- TXLEN (R30) -/
  txlen     : BitVec 9
  /-- RXLEN (R30) -/
  rxlen     : BitVec 9
  /-- EXPLEN (R30) -/
  explen    : BitVec 9
  /-- DIR: bit 0 TXEN, bit 1 RXEN (R31) -/
  dir       : BitVec 2
  /-- CRC (R32) -/
  crc       : BitVec 16
  /-- FLD_BASE (R33) -/
  fldBase   : BitVec 7
  /-- FLD_WCNT (R33) -/
  fldWcnt   : BitVec 8
  /-- FLD_OFF (R34) -/
  fldOff    : BitVec 12
  /-- FLD_LEN (R34) -/
  fldLen    : BitVec 6
  /-- FLD_VAL (R35) -/
  fldVal    : BitVec 32
  /-- FLD_RES (R36) -/
  fldRes    : BitVec 32
  /-- FLD_DIRTY (R37) -/
  fldDirty  : Bool
  /-- FLD_SEL (R38) -/
  fldSel    : BitVec 8
  /-- FLD_IDX (R38) -/
  fldIdx    : BitVec 8
  /-- GRP_SEL (R39) -/
  grpSel    : BitVec 3
  /-- GRP_UNIT (R39) -/
  grpUnit   : BitVec 8
  /-- GRP_KIND: false input, true holding (R39) -/
  grpKind   : Bool
  /-- LAT (R40) -/
  lat       : Latches
  /-- WBUF, 128 words (R42) -/
  wbuf      : Memory 16
  /-- TXBUF, 256 bytes (R43) -/
  txbuf     : Memory 8
  /-- RXBUF, 256 bytes (R44) -/
  rxbuf     : Memory 8
  deriving DecidableEq, Repr

/-- The block has no trap and no fault: "every error is a code in STATUS" (60_exceptions, R286). No constructor:
no step of this model can end in a fault. -/
inductive Fault where
  deriving DecidableEq, Repr

/-- The reasons a step is refused. -/
inductive Refusal where
  /-- An instruction with no meaning yet: raised by `exec` alone. Safe: the model stops where the block goes on.
  No arm raises it. -/
  | notModelled (mnemonic : String)
  /-- A host access that is not an aligned 32-bit access of the window, raised by `runEvent`: it "has no defined
  meaning, and a model refuses it" (20_memory R63, I8; log 6). Safe. -/
  | hostAccess
  /-- `ser_accept(n)` with n above TXLEN while a frame is offered, raised by `runEvent`: the serial port cannot
  take more bytes than it is offered, and the spec defines the step for `0 <= n <= TXLEN` only (10_state R50,
  44_rtu R242; log 7). Safe. -/
  | acceptCountAboveOffer
  deriving DecidableEq, Repr

/-- The state after reset for parameters `p` (70_reset R310, 10_state R20). -/
def State.resetWith (p : Params) : State where
  params    := p
  inbox     := []
  drawIx    := 0
  hostRdata := 0
  framer    := .idle
  res       := .ok
  cres      := .ok
  slave     := 0
  addr      := 0
  count     := 0
  xbase     := 0
  timeout   := p.timeoutReset
  elapsed   := 0
  txlen     := 0
  rxlen     := 0
  explen    := 0
  dir       := 0
  crc       := 0xFFFF
  fldBase   := 0
  fldWcnt   := 0
  fldOff    := 0
  fldLen    := 0
  fldVal    := 0
  fldRes    := 0
  fldDirty  := false
  fldSel    := 0
  fldIdx    := 0
  grpSel    := 0
  grpUnit   := 0
  grpKind   := false
  lat       := ⟨.read, 0, 0, 0, 0, 0, 0⟩
  wbuf      := []
  txbuf     := []
  rxbuf     := []

/-- The state right after reset, with the default parameters (00_scope R7). -/
def State.reset : State := State.resetWith Params.default

end Sys2Proof.Machine
end

