-- ==== Sys2Proof/Machine/Ops.lean ====
section
/-! DEFINITION. The named operations over the buffers and over the status codes: reading and writing one cell
(spec/10_state.md rules R42 to R44), runs of cells, and the ways a command or a transaction ends
(spec/00_scope.md rule R12 "raise Result", spec/60_exceptions.md). -/

namespace Sys2Proof.Machine

/-- Read cell `i`; an unlisted cell reads 0, the reset value (10_state R42 to R44; log 8). -/
def Memory.read {w : Nat} (m : Memory w) (i : Nat) : BitVec w :=
  match m with
  | [] => 0
  | (j, v) :: rest => if j = i then v else Memory.read rest i

/-- Put the pair (i, v) at its place in a list of rising indices. -/
def Memory.insert {w : Nat} (i : Nat) (v : BitVec w) : Memory w → Memory w
  | [] => [(i, v)]
  | (j, x) :: rest => if i < j then (i, v) :: (j, x) :: rest else (j, x) :: Memory.insert i v rest

/-- Write `v` to cell `i` of a buffer of `size` cells, keeping the canonical form: writing 0 removes the entry.
No access leaves the buffer (41_codec, "never read/write outside the buffer"): there, nothing is written (log 8). -/
def Memory.write {w : Nat} (size : Nat) (m : Memory w) (i : Nat) (v : BitVec w) : Memory w :=
  if i < size then
    if v = 0 then m.filter (fun c => c.1 != i)
    else Memory.insert i v (m.filter (fun c => c.1 != i))
  else m

/-- The canonical form of a buffer of `size` cells: indices strictly rising and below `size`, no value equal to
what an unlisted cell reads as. -/
abbrev Memory.wf {w : Nat} (size : Nat) (m : Memory w) : Prop :=
  m.Pairwise (fun a b => a.1 < b.1) ∧ ∀ c ∈ m, c.1 < size ∧ c.2 ≠ 0

/-- Write the values of `vs` to the cells from `i` up, in order. -/
def Memory.writeList {w : Nat} (size : Nat) (m : Memory w) (i : Nat) : List (BitVec w) → Memory w
  | [] => m
  | v :: vs => Memory.writeList size (Memory.write size m i v) (i + 1) vs

/-- The `n` cells from `i` up, in order. -/
def Memory.readList {w : Nat} (m : Memory w) (i : Nat) : Nat → List (BitVec w)
  | 0 => []
  | n + 1 => Memory.read m i :: Memory.readList m (i + 1) n

/-- Word `i` of WBUF written (10_state R42). -/
def writeWord (m : Memory 16) (i : Nat) (v : RegWord) : Memory 16 :=
  Memory.write Config.wbufWords m i v

/-- The high byte and the low byte of a word, in the order they travel on the wire (20_memory R66, R67). -/
def wordBytes (v : RegWord) : List Byte := [v.extractLsb' 8 8, v.extractLsb' 0 8]

/-- The word a received pair of bytes stores: `hi * 256 + lo` (20_memory R67). -/
def wordOfBytes (hi lo : Byte) : RegWord := hi ++ lo

/-- Dispatch of an accepted command: `STATUS.CRES <- OK` (40_control R120). -/
def commandOk (s : State) : State := { s with cres := .ok }

/-- A view or group command with a bad operand register: `STATUS.CRES <- ERR_ARG`, nothing else
(40_control R121, 60_exceptions R281 and R283). -/
def commandErrArg (s : State) : State := { s with cres := .errArg }

/-- An illegal command word: `STATUS.CRES <- ILLEGAL`, nothing else (40_control R123). -/
def commandIllegal (s : State) : State := { s with cres := .illegal }

/-- An RTU command while a transaction runs: `STATUS.CRES <- BUSY_REJ`, nothing else (40_control R122). -/
def commandBusy (s : State) : State := { s with cres := .busyRej }

/-- The direction outputs while asserted: bit 1 RXEN, bit 0 TXEN, each only where the output exists
(44_rtu R231, 10_state R31). -/
def dirAsserted (p : Params) : BitVec 2 := BitVec.ofBool p.hasRxen ++ BitVec.ofBool p.hasTxen

/-- End the running transaction with a result: `state <- IDLE; raise Result(code) in STATUS.RES` (00_scope R12).
The block's errors are codes; this is all that takes the place of a trap (60_exceptions R286). -/
def endTransaction (code : ResCode) (s : State) : State := { s with framer := .idle, res := code }

/-- Release the direction outputs: `REG.DIR <- 0b00` (10_state R31, 44_rtu R251). -/
def releaseDir (s : State) : State := { s with dir := 0 }

end Sys2Proof.Machine
end

