-- ==== Sys2Proof/Machine/Operands.lean ====
section
/-! DEFINITION. The operand forms: bits and fields of the word buffer (spec/00_scope.md rule R13,
spec/20_memory.md rule R62), the range check (spec/41_codec.md rules R131, R132), the sign-magnitude and
temperature formats (rules R140, R145), and how FLD_VAL is read (spec/30_encoding.md rule R96). -/

namespace Sys2Proof.Machine

/-- `getb(base, i)`: bit address `i` of the window at word `base` (00_scope R13). -/
def getb (m : Memory 16) (base i : Nat) : Bool :=
  (Memory.read m (base + i / 16)).getLsbD (i % 16)

/-- A word with its bit `k` set to `x`, the other bits unchanged. -/
def wordWithBit (v : RegWord) (k : Nat) (x : Bool) : RegWord :=
  if x then v ||| (1#16 <<< k) else v &&& ~~~(1#16 <<< k)

/-- `setb(base, i, x)`: write bit address `i` of the window at word `base` (00_scope R13). -/
def setb (m : Memory 16) (base i : Nat) (x : Bool) : Memory 16 :=
  writeWord m (base + i / 16) (wordWithBit (Memory.read m (base + i / 16)) (i % 16) x)

/-- `getf(base, off, L)`: the sum over k in 0..L-1 of `getb(base, off + k) * 2^k` (00_scope R13). -/
def getf (m : Memory 16) (base off : Nat) : Nat → Nat
  | 0 => 0
  | k + 1 => getf m base off k + (getb m base (off + k)).toNat * 2 ^ k

/-- `setf(base, off, L, u)`: for k in 0..L-1, `setb(base, off + k, (u div 2^k) mod 2)` (00_scope R13). -/
def setf (m : Memory 16) (base off : Nat) (u : Nat) : Nat → Memory 16
  | 0 => m
  | k + 1 => setb (setf m base off u k) base (off + k) (u / 2 ^ k % 2 == 1)

/-- The range check of a field of length `L` at offset `off` in the window of `n` words at `b` (41_codec R131). -/
def inRange (b n off L : Nat) : Bool :=
  b + n ≤ Config.wbufWords && 1 ≤ L && off + L ≤ 16 * n

/-- The lengths GET_UNS and SET_UNS accept (41_codec R132). -/
def unsignedLength (L : Nat) : Bool := 1 ≤ L && L ≤ 32

/-- The lengths the signed and temperature primitives accept (41_codec R132). -/
def signedLength (L : Nat) : Bool := 2 ≤ L && L ≤ 32

/-- `sm_decode(f, L)`, the integer a sign-magnitude field value means (41_codec R140). -/
def smDecode (f L : Nat) : Int :=
  let m : Int := (f % 2 ^ (L - 1) : Nat)
  if f / 2 ^ (L - 1) = 1 then -m else m

/-- `sm_encode(v, L)`, the field value an integer is stored as; the magnitude keeps its low L-1 bits
(41_codec R140, R142). -/
def smEncode (v : Int) (L : Nat) : Nat :=
  (if v < 0 then 2 ^ (L - 1) else 0) + v.natAbs % 2 ^ (L - 1)

/-- `rhaz10(h)`: hundredths rounded to tenths, half away from zero (41_codec R145). -/
def rhaz10 (h : Int) : Int := h.sign * ((h.natAbs + 5) / 10 : Nat)

/-- `s32(w)`: a 32-bit word as two's complement (00_scope R11). -/
def s32 (w : Word) : Int := w.toInt

/-- `u32(x)`: an integer modulo 2^32 (00_scope R11). -/
def u32 (x : Int) : Word := BitVec.ofInt 32 x

/-- FLD_VAL as a boolean, 0 or 1 (30_encoding R96). -/
def valBool (s : State) : Bool := s.fldVal != 0

/-- FLD_VAL as an unsigned value (30_encoding R96). -/
def valUnsigned (s : State) : Nat := s.fldVal.toNat

/-- FLD_VAL as a signed value (30_encoding R96). -/
def valSigned (s : State) : Int := s32 s.fldVal

/-- FLD_VAL as a temperature: signed hundredths, rounded to tenths (30_encoding R96, 41_codec R147). -/
def valTenths (s : State) : Int := rhaz10 (s32 s.fldVal)

/-- The field at FLD_OFF of length `L` lies in the codec window FLD_BASE, FLD_WCNT (41_codec R131). -/
def codecInRange (s : State) (L : Nat) : Bool :=
  inRange s.fldBase.toNat s.fldWcnt.toNat s.fldOff.toNat L

/-- The value of the field at FLD_OFF of length `L` in the codec window (41_codec R137). -/
def codecField (s : State) (L : Nat) : Nat :=
  getf s.wbuf s.fldBase.toNat s.fldOff.toNat L

/-- FLD_LEN as a length (10_state R34). -/
def fieldLength (s : State) : Nat := s.fldLen.toNat

end Sys2Proof.Machine
end

