-- ==== Sys2Proof/Machine/Flags.lean ====
section
/-! DEFINITION. The status bits: FLD_DIRTY (spec/41_codec.md rule R133, spec/10_state.md rule R37) and the STATUS
word with its codes (spec/10_state.md rules R23 and R41, spec/60_exceptions.md rules R280 and R281). The block has
no condition codes and no arithmetic flags (10_state R49). -/

namespace Sys2Proof.Machine

/-- `FLD_DIRTY <- FLD_DIRTY or changed`, when DE = 1; with DE = 0 unchanged (10_state R37, 41_codec R133). -/
def dirtyAfter (de changed dirty : Bool) : Bool := dirty || (de && changed)

/-- The code of a framer state, STATUS.STATE (10_state R41). -/
def FramerState.code : FramerState → BitVec 3
  | .idle    => 0
  | .txWrite => 1
  | .txWait  => 2
  | .rx      => 3

/-- The code of a transaction result, STATUS.RES (60_exceptions R280). -/
def ResCode.code : ResCode → BitVec 8
  | .ok            => 0x00
  | .errArg        => 0x01
  | .errWriteCount => 0x02
  | .errTimeout    => 0x03
  | .errFrame      => 0x04
  | .errCrc        => 0x05
  | .pending       => 0x07

/-- The code of a dispatch result, STATUS.CRES (60_exceptions R281). -/
def CresCode.code : CresCode → BitVec 8
  | .ok      => 0x00
  | .errArg  => 0x01
  | .illegal => 0x06
  | .busyRej => 0x08

/-- BUSY = 1 exactly when `state` is not IDLE (10_state R23). -/
def busy (s : State) : Bool := s.framer != .idle

/-- The STATUS word: CRES [23:16], RES [15:8], STATE [6:4], BUSY [0], the rest 0 (10_state R23). -/
def statusWord (s : State) : Word :=
  (BitVec.ofBool (busy s)).setWidth 32 ||| s.framer.code.setWidth 32 <<< 4 ||| s.res.code.setWidth 32 <<< 8 |||
    s.cres.code.setWidth 32 <<< 16

end Sys2Proof.Machine
end

