-- ==== Sys2Proof/Machine/Codec.lean ====
section
/-! DEFINITION. The eight field codec primitives (spec/41_codec.md rules R130 to R148). Each is total: an access out
of range or of a length not accepted is a no-op (rules R131, R132), with STATUS.CRES = OK (rule R130). -/

namespace Sys2Proof.Machine

/-- A get: its result to FLD_RES, or 0 when the access is not accepted (41_codec R131, R134). -/
def codecGet (accepted : Bool) (v : Word) (s : State) : State :=
  { commandOk s with fldRes := if accepted then v else 0 }

/-- A set of the field at FLD_OFF of length `L`: when the access is accepted, store `bits` and raise FLD_DIRTY by the
rule of 41_codec R133 from the requested and the prior decoded value; otherwise no effect (R131). -/
def codecSet (de accepted : Bool) (L bits : Nat) (req old : Int) (s : State) : State :=
  if accepted then
    { commandOk s with
      wbuf     := setf s.wbuf s.fldBase.toNat s.fldOff.toNat bits L
      fldDirty := dirtyAfter de (req != old) s.fldDirty }
  else commandOk s

/-- GET_BIT: one bit; FLD_LEN is ignored (41_codec R135, R132). -/
def execGetBit (s : State) : Host.Outcome State Fault Refusal :=
  .next (codecGet (codecInRange s 1) (BitVec.ofNat 32 (codecField s 1)) s)

/-- SET_BIT: one bit from FLD_VAL read as a boolean; FLD_LEN is ignored (41_codec R136, R132). -/
def execSetBit (de : Bool) (s : State) : Host.Outcome State Fault Refusal :=
  .next (codecSet de (codecInRange s 1) 1 (valBool s).toNat (valBool s).toNat (codecField s 1) s)

/-- GET_UNS: an unsigned field, zero-extended (41_codec R137). -/
def execGetUns (s : State) : Host.Outcome State Fault Refusal :=
  let L := fieldLength s
  .next (codecGet (unsignedLength L && codecInRange s L) (BitVec.ofNat 32 (codecField s L)) s)

/-- SET_UNS: the low L bits of FLD_VAL are stored; dirty compares the whole of it (41_codec R138). -/
def execSetUns (de : Bool) (s : State) : Host.Outcome State Fault Refusal :=
  let L := fieldLength s
  .next (codecSet de (unsignedLength L && codecInRange s L) L (valUnsigned s % 2 ^ L)
    (valUnsigned s) (codecField s L) s)

/-- GET_SGN: a sign-magnitude field, as a two's-complement result (41_codec R141). -/
def execGetSgn (s : State) : Host.Outcome State Fault Refusal :=
  let L := fieldLength s
  .next (codecGet (signedLength L && codecInRange s L) (u32 (smDecode (codecField s L) L)) s)

/-- SET_SGN: FLD_VAL as a signed value, stored sign-magnitude (41_codec R142). -/
def execSetSgn (de : Bool) (s : State) : Host.Outcome State Fault Refusal :=
  let L := fieldLength s
  .next (codecSet de (signedLength L && codecInRange s L) L (smEncode (valSigned s) L)
    (valSigned s) (smDecode (codecField s L) L) s)

/-- GET_TEMP: exactly GET_SGN's result, read by the host as tenths of a degree (41_codec R146). -/
def execGetTemp (s : State) : Host.Outcome State Fault Refusal :=
  let L := fieldLength s
  .next (codecGet (signedLength L && codecInRange s L) (u32 (smDecode (codecField s L) L)) s)

/-- SET_TEMP: FLD_VAL in signed hundredths, rounded to tenths and stored sign-magnitude (41_codec R147). -/
def execSetTemp (de : Bool) (s : State) : Host.Outcome State Fault Refusal :=
  let L := fieldLength s
  .next (codecSet de (signedLength L && codecInRange s L) L (smEncode (valTenths s) L)
    (valTenths s) (smDecode (codecField s L) L) s)

end Sys2Proof.Machine
end

