-- ==== Sys2Proof/Machine/Control.lean ====
section
/-! DEFINITION. The control family: NOP (spec/40_control.md rule R125). -/

namespace Sys2Proof.Machine

/-- NOP: `CRES <- OK`, done by dispatch, and nothing else (40_control R125). -/
def execNop (s : State) : Host.Outcome State Fault Refusal :=
  .next (commandOk s)

end Sys2Proof.Machine
end

