-- ==== Sys2Proof/Machine/Crc.lean ====
section
/-! DEFINITION. The CRC16 engine (spec/43_crc.md): the Modbus CRC, reflected polynomial 0xA001, initial value
0xFFFF, and the commands CRC_INIT and CRC_BYTE. -/

namespace Sys2Proof.Machine

/-- `n` shifts of the CRC, LSB first (43_crc R200). -/
def crcShift : Nat → BitVec 16 → BitVec 16
  | 0, c => c
  | n + 1, c => crcShift n (if c.getLsbD 0 then (c >>> 1) ^^^ 0xA001#16 else c >>> 1)

/-- `crc_step(c, x)`: the byte enters the low 8 bits, then 8 shifts (43_crc R200). -/
def crcStep (c : BitVec 16) (x : Byte) : BitVec 16 :=
  crcShift 8 (c ^^^ x.setWidth 16)

/-- `crc16` of a byte sequence in transmission order, initial value 0xFFFF, no final XOR (43_crc R201). -/
def crc16 (xs : List Byte) : BitVec 16 := xs.foldl crcStep 0xFFFF#16

/-- A frame: a body followed by its CRC, low byte first (43_crc R202, 20_memory R66). -/
def withCrc (body : List Byte) : List Byte :=
  body ++ [(crc16 body).extractLsb' 0 8, (crc16 body).extractLsb' 8 8]

/-- CRC_INIT: `REG.CRC <- 0xFFFF` (43_crc R203). -/
def execCrcInit (s : State) : Host.Outcome State Fault Refusal :=
  .next { commandOk s with crc := 0xFFFF }

/-- CRC_BYTE: `REG.CRC <- crc_step(REG.CRC, imm)` (43_crc R204). -/
def execCrcByte (imm : Byte) (s : State) : Host.Outcome State Fault Refusal :=
  .next { commandOk s with crc := crcStep s.crc imm }

end Sys2Proof.Machine
end

