-- ==== Sys2Proof/Machine/Rtu.lean ====
section
/-! DEFINITION. The RTU framer (spec/44_rtu.md): frame construction, argument check and acceptance, the three RTU
commands, the steps of the serial port and of the time base, and validation. -/

namespace Sys2Proof.Machine

/-- The read request for function `fc`: 8 bytes (44_rtu R221, 30_encoding R97). -/
def readRequest (l : Latches) (fc : BitVec 8) : List Byte :=
  withCrc [l.slave, fc, l.addr.extractLsb' 8 8, l.addr.extractLsb' 0 8, 0x00, l.count]

/-- The data bytes of a write request: the words from `x` up, high byte first (44_rtu R223). -/
def dataBytes (words : List RegWord) : List Byte := words.flatMap wordBytes

/-- The write-multiple request: `9 + 2*N` bytes (44_rtu R223, 30_encoding R99). -/
def writeRequest (l : Latches) (m : Memory 16) : List Byte :=
  withCrc ([l.slave, 0x10, l.addr.extractLsb' 8 8, l.addr.extractLsb' 0 8, 0x00, l.count,
      BitVec.ofNat 8 (2 * l.count.toNat)]
    ++ dataBytes (Memory.readList m l.xbase.toNat l.count.toNat))

/-- The request frame of an accepted command (44_rtu R231). -/
def requestFrame (l : Latches) (m : Memory 16) : List Byte :=
  match l.op with
  | .read  => readRequest l l.fc
  | .write => writeRequest l m

/-- The expected response length (44_rtu R224). -/
def expectedLength (op : RtuOp) (count : Nat) : Nat :=
  match op with
  | .read  => 5 + 2 * count
  | .write => 8

/-- `max(op)`: the largest accepted COUNT (44_rtu R230, 00_scope R7). -/
def maxCount (p : Params) : RtuOp → Nat
  | .read  => p.maxReadCount
  | .write => p.maxWriteCount

/-- `arg_ok(op)`: the argument check, before any bus activity (44_rtu R230). -/
def argOk (op : RtuOp) (s : State) : Bool :=
  1 ≤ s.count.toNat && s.count.toNat ≤ maxCount s.params op &&
    s.xbase.toNat + s.count.toNat ≤ Config.wbufWords && 1 ≤ s.timeout.toNat

/-- The latches loaded from the operand registers at acceptance (10_state R40, 44_rtu R231). -/
def loadLatches (op : RtuOp) (fc : BitVec 8) (s : State) : Latches where
  op      := op
  fc      := fc
  slave   := s.slave
  addr    := s.addr
  count   := s.count
  xbase   := s.xbase
  timeout := s.timeout

/-- `accept(op, fc)`: latch the operands, build the frame into TXBUF, assert the direction and offer the frame
(44_rtu R231). -/
def accept (op : RtuOp) (fc : BitVec 8) (s : State) : State :=
  let l := loadLatches op fc s
  let frame := requestFrame l s.wbuf
  { s with
    lat     := l
    txbuf   := Memory.writeList Config.rtuBufBytes s.txbuf 0 frame
    txlen   := BitVec.ofNat 9 frame.length
    explen  := BitVec.ofNat 9 (expectedLength op s.count.toNat)
    rxlen   := 0
    elapsed := 0
    dir     := dirAsserted s.params
    res     := .pending
    framer  := .txWrite }

/-- An RTU command: busy rejection, then `CRES <- OK` and the argument check, then acceptance
(40_control R120 and R122, 44_rtu R230 and R231). -/
def rtuCommand (op : RtuOp) (fc : BitVec 8) (s : State) : State :=
  if busy s then commandBusy s
  else if argOk op s then accept op fc (commandOk s)
  else { commandOk s with res := .errArg }

/-- RTU_RD_HOLD: read holding registers, function 0x03 (44_rtu R233). -/
def execRtuRdHold (s : State) : Host.Outcome State Fault Refusal :=
  .next (rtuCommand .read 0x03 s)

/-- RTU_RD_INPUT: read input registers, function 0x04 (44_rtu R234). -/
def execRtuRdInput (s : State) : Host.Outcome State Fault Refusal :=
  .next (rtuCommand .read 0x04 s)

/-- RTU_WR_MULTI: write multiple holding registers, function 0x10 (44_rtu R235). -/
def execRtuWrMulti (s : State) : Host.Outcome State Fault Refusal :=
  .next (rtuCommand .write 0x10 s)

/-- `ser_accept(n)` in TX_WRITE (44_rtu R242). -/
def acceptCount (n : Nat) (s : State) : State :=
  if n = s.txlen.toNat then { s with framer := .txWait }
  else endTransaction .errWriteCount (releaseDir s)

/-- `ser_txdone`: transmit-complete; no effect outside TX_WAIT (44_rtu R244). -/
def txDone (s : State) : State :=
  if s.framer = .txWait then { releaseDir s with framer := .rx } else s

/-- Byte `k` of the response (44_rtu R248). -/
def rxByteAt (s : State) (k : Nat) : Byte := Memory.read s.rxbuf k

/-- The CRC check of a response whose CRC follows `m` bytes: `crc16(y[0..m-1]) = y[m] + 256*y[m+1]` (43_crc R202). -/
def crcMatches (s : State) (m : Nat) : Bool :=
  (crc16 (Memory.readList s.rxbuf 0 m)).toNat == (rxByteAt s m).toNat + 256 * (rxByteAt s (m + 1)).toNat

/-- The framing check of a read response: slave id, function, byte count (44_rtu R248, 30_encoding R98). -/
def readFrameOk (s : State) : Bool :=
  rxByteAt s 0 == s.lat.slave && rxByteAt s 1 == s.lat.fc && (rxByteAt s 2).toNat == 2 * s.lat.count.toNat

/-- `validate_read`: framing before CRC (44_rtu R248). -/
def validateRead (s : State) : ResCode :=
  if !readFrameOk s then .errFrame
  else if !crcMatches s (3 + 2 * s.lat.count.toNat) then .errCrc
  else .ok

/-- The framing check of a write response: the six echoed bytes (44_rtu R249, 30_encoding R100). -/
def writeFrameOk (s : State) : Bool :=
  rxByteAt s 0 == s.lat.slave && rxByteAt s 1 == 0x10 &&
    rxByteAt s 2 == s.lat.addr.extractLsb' 8 8 && rxByteAt s 3 == s.lat.addr.extractLsb' 0 8 &&
    rxByteAt s 4 == 0x00 && rxByteAt s 5 == s.lat.count

/-- `validate_write`: framing before CRC (44_rtu R249). -/
def validateWrite (s : State) : ResCode :=
  if !writeFrameOk s then .errFrame
  else if !crcMatches s 6 then .errCrc
  else .ok

/-- The validation of the latched operation (44_rtu R246). -/
def validate (s : State) : ResCode :=
  match s.lat.op with
  | .read  => validateRead s
  | .write => validateWrite s

/-- Data word `k` of a read response: `y[3+2k] * 256 + y[4+2k]` (44_rtu R250). -/
def responseWord (s : State) (k : Nat) : RegWord :=
  wordOfBytes (rxByteAt s (3 + 2 * k)) (rxByteAt s (4 + 2 * k))

/-- `commit_read`: the data words to WBUF[LAT.xbase ..] (44_rtu R250). -/
def commitRead (s : State) : State :=
  { s with
    wbuf := Memory.writeList Config.wbufWords s.wbuf s.lat.xbase.toNat
      ((List.range s.lat.count.toNat).map (responseWord s)) }

/-- The response is complete: validate, commit the data of a good read, and go idle (44_rtu R246, R248 to R250). -/
def completeResponse (s : State) : State :=
  let code := validate s
  endTransaction code (if code = .ok ∧ s.lat.op = .read then commitRead s else s)

/-- Byte `b` into RXBUF at RXLEN, and RXLEN advanced (44_rtu R246). -/
def storeRxByte (b : Byte) (s : State) : State :=
  { s with
    rxbuf := Memory.write Config.rtuBufBytes s.rxbuf s.rxlen.toNat b
    rxlen := s.rxlen + 1 }

/-- `ser_rxbyte(b)`: dropped outside RX (44_rtu R246). -/
def rxByte (b : Byte) (s : State) : State :=
  if s.framer = .rx then
    let s' := storeRxByte b s
    if s'.rxlen = s'.explen then completeResponse s' else s'
  else s

/-- ELAPSED + 1, saturating at 0xFFFF (10_state R29, R52). -/
def elapsedNext (e : BitVec 16) : BitVec 16 := if e = 0xFFFF then e else e + 1

/-- `tick`: the deadline counter of a running transaction (10_state R52). -/
def tickStep (s : State) : State :=
  if busy s then
    let s' := { s with elapsed := elapsedNext s.elapsed }
    if s'.lat.timeout.toNat ≤ s'.elapsed.toNat then endTransaction .errTimeout (releaseDir s') else s'
  else s

/-- The frame on offer to the serial port: TXBUF[0..TXLEN-1] in TX_WRITE (44_rtu R231, 10_state R43). -/
def offeredFrame (s : State) : Option (List Byte) :=
  if s.framer = .txWrite then some (Memory.readList s.txbuf 0 s.txlen.toNat) else none

end Sys2Proof.Machine
end

