-- ==== Sys2Proof/Machine/Rom.lean ====
section
/-! DEFINITION. The read-only tables of the typed views: the groups (spec/42_views.md rule R170) and the field
descriptors (rule R171). They are constants, not state (spec/10_state.md rule R46). -/

namespace Sys2Proof.Machine

/-- The five groups, numbered 0 to 4 in this order (42_views R170). -/
inductive Group where
  | sys | cap | stat | hold | err
  deriving DecidableEq, Repr

/-- The two register spaces of the device (20_memory R64). -/
inductive RegSpace where
  | input | holding
  deriving DecidableEq, Repr

/-- The encodings of 42_views R173 and R174. -/
inductive FieldEnc where
  | bit | uns | sgn | temp | en6 | nz
  deriving DecidableEq, Repr

/-- A row of the field descriptor table (42_views R171). -/
structure FieldDesc where
  group   : Group
  off     : Nat
  len     : Nat
  enc     : FieldEnc
  /-- "idx": the row's offset is `off + FLD_IDX` -/
  indexed : Bool := false
  /-- "coupled": the row has the side effect of rule R177 -/
  coupled : Bool := false
  deriving DecidableEq, Repr

/-- The group a GRP_SEL value names; 5, 6 and 7 name none (42_views R170, R190). -/
def groupOfSel (g : BitVec 3) : Option Group :=
  match g.toNat with
  | 0 => some .sys
  | 1 => some .cap
  | 2 => some .stat
  | 3 => some .hold
  | 4 => some .err
  | _ => none

/-- The register space of a group (42_views R170). -/
def Group.space : Group → RegSpace
  | .sys | .cap | .stat | .err => .input
  | .hold => .holding

/-- The register address of a group's block of unit 0 (42_views R170). -/
def Group.base : Group → Nat
  | .sys => 0 | .cap => 1000 | .stat => 2000 | .hold => 2000 | .err => 3600

/-- The registers from one unit's block to the next (42_views R170); the system block is not per unit. -/
def Group.stride : Group → Nat
  | .sys => 0 | .cap => 3 | .stat => 6 | .hold => 3 | .err => 2

/-- The words of a group's block (42_views R170). -/
def Group.words : Group → Nat
  | .sys => 9 | .cap => 3 | .stat => 6 | .hold => 3 | .err => 2

/-- Whether a group has one block per unit (42_views R170). -/
def Group.perUnit : Group → Bool
  | .sys => false
  | .cap | .stat | .hold | .err => true

/-- The rows of system status and unit capability (42_views R171). -/
def fieldRowsSysCap : List (Nat × FieldDesc) :=
  [ (0x00, { group := .sys, off := 0, len := 1, enc := .bit }),                    -- SYS_INIT
    (0x01, { group := .sys, off := 1, len := 1, enc := .bit }),                    -- SYS_OTHER_MASTER
    (0x02, { group := .sys, off := 16, len := 1, enc := .bit, indexed := true }),  -- SYS_CONNECTED
    (0x03, { group := .sys, off := 80, len := 1, enc := .bit, indexed := true }),  -- SYS_ERROR
    (0x10, { group := .cap, off := 0, len := 1, enc := .bit }),                    -- CAP_FAN_MODE
    (0x11, { group := .cap, off := 1, len := 1, enc := .bit }),                    -- CAP_COOL_MODE
    (0x12, { group := .cap, off := 2, len := 1, enc := .bit }),                    -- CAP_HEAT_MODE
    (0x13, { group := .cap, off := 3, len := 1, enc := .bit }),                    -- CAP_AUTO_MODE
    (0x14, { group := .cap, off := 4, len := 1, enc := .bit }),                    -- CAP_DRY_MODE
    (0x15, { group := .cap, off := 11, len := 1, enc := .bit }),                   -- CAP_FAN_DIR_SUP
    (0x16, { group := .cap, off := 8, len := 3, enc := .uns }),                    -- CAP_FAN_DIR_STEPS
    (0x17, { group := .cap, off := 15, len := 1, enc := .bit }),                   -- CAP_FAN_SPD_SUP
    (0x18, { group := .cap, off := 12, len := 3, enc := .uns }),                   -- CAP_FAN_SPD_STEPS
    (0x19, { group := .cap, off := 16, len := 8, enc := .sgn }),                   -- CAP_COOL_UPPER
    (0x1A, { group := .cap, off := 24, len := 8, enc := .sgn }),                   -- CAP_COOL_LOWER
    (0x1B, { group := .cap, off := 32, len := 8, enc := .sgn }),                   -- CAP_HEAT_UPPER
    (0x1C, { group := .cap, off := 40, len := 8, enc := .sgn }) ]                  -- CAP_HEAT_LOWER

/-- The rows of unit status and unit holding (42_views R171). Id 0x36 is left invalid. -/
def fieldRowsStatHold : List (Nat × FieldDesc) :=
  [ (0x20, { group := .stat, off := 0, len := 1, enc := .bit }),                   -- ST_POWER
    (0x21, { group := .stat, off := 4, len := 4, enc := .en6 }),                   -- ST_FAN_CTRL_EN
    (0x22, { group := .stat, off := 8, len := 3, enc := .uns }),                   -- ST_FAN_DIR
    (0x23, { group := .stat, off := 12, len := 3, enc := .uns }),                  -- ST_FAN_SPEED
    (0x24, { group := .stat, off := 16, len := 4, enc := .uns }),                  -- ST_MODE
    (0x25, { group := .stat, off := 20, len := 4, enc := .nz }),                   -- ST_FILTER
    (0x26, { group := .stat, off := 24, len := 4, enc := .uns }),                  -- ST_CURRENT_MODE
    (0x27, { group := .stat, off := 32, len := 16, enc := .temp }),                -- ST_SETPOINT
    (0x30, { group := .hold, off := 0, len := 1, enc := .bit }),                   -- HD_POWER
    (0x31, { group := .hold, off := 4, len := 4, enc := .en6 }),                   -- HD_FAN_CTRL_EN
    (0x32, { group := .hold, off := 8, len := 3, enc := .uns, coupled := true }),  -- HD_FAN_DIR
    (0x33, { group := .hold, off := 12, len := 3, enc := .uns, coupled := true }), -- HD_FAN_SPEED
    (0x34, { group := .hold, off := 16, len := 4, enc := .uns }),                  -- HD_MODE
    (0x35, { group := .hold, off := 20, len := 4, enc := .nz }),                   -- HD_FILTER_RESET
    (0x37, { group := .hold, off := 32, len := 16, enc := .temp }) ]               -- HD_SETPOINT

/-- The rows of unit error (42_views R171). -/
def fieldRowsErr : List (Nat × FieldDesc) :=
  [ (0x40, { group := .err, off := 0, len := 8, enc := .uns }),                    -- ER_CHAR0
    (0x41, { group := .err, off := 8, len := 8, enc := .uns }),                    -- ER_CHAR1
    (0x42, { group := .err, off := 16, len := 6, enc := .uns }),                   -- ER_SUBCODE
    (0x43, { group := .err, off := 24, len := 1, enc := .bit }),                   -- ER_ERROR
    (0x44, { group := .err, off := 25, len := 1, enc := .bit }),                   -- ER_ALARM
    (0x45, { group := .err, off := 26, len := 1, enc := .bit }),                   -- ER_WARNING
    (0x46, { group := .err, off := 28, len := 4, enc := .uns }) ]                  -- ER_UNIT_NO

/-- The field descriptor ROM: (FLD_SEL, descriptor) rows (42_views R171). -/
def fieldRows : List (Nat × FieldDesc) := fieldRowsSysCap ++ fieldRowsStatHold ++ fieldRowsErr

/-- `ROM[FLD_SEL]`; "every id not listed is invalid" (42_views R171). -/
def fieldRom (sel : BitVec 8) : Option FieldDesc := fieldRows.lookup sel.toNat

end Sys2Proof.Machine
end

