-- ==== Sys2Proof/Machine/Views.lean ====
section
/-! DEFINITION. The typed views: VIEW_GET, VIEW_SET with the coupled fan setters, and GRP_SETUP
(spec/42_views.md rules R172 to R178 and R190). -/

namespace Sys2Proof.Machine

/-- The bit offset of a view access: `d.off`, or `d.off + FLD_IDX` for an indexed row (42_views R172). -/
def viewOffset (d : FieldDesc) (s : State) : Nat :=
  if d.indexed then d.off + s.fldIdx.toNat else d.off

/-- The range check of a view access: the window of the group's words at FLD_BASE and, for an indexed row,
FLD_IDX <= 63 (42_views R172). -/
def viewInRange (d : FieldDesc) (s : State) : Bool :=
  inRange s.fldBase.toNat d.group.words (viewOffset d s) d.len && (!d.indexed || s.fldIdx.toNat ≤ 63)

/-- The field's value `f` in the view window (42_views R173). -/
def viewField (d : FieldDesc) (s : State) : Nat :=
  getf s.wbuf s.fldBase.toNat (viewOffset d s) d.len

/-- What VIEW_GET puts in FLD_RES for field value `f` (42_views R173). -/
def decodeEnc (e : FieldEnc) (f L : Nat) : Word :=
  match e with
  | .bit  => BitVec.ofNat 32 f
  | .uns  => BitVec.ofNat 32 f
  | .sgn  => u32 (smDecode f L)
  | .temp => u32 (smDecode f L)
  | .en6  => if f = 6 then 1 else 0
  | .nz   => if f ≠ 0 then 1 else 0

/-- The requested value a VIEW_SET reads from FLD_VAL (42_views R174, column req). -/
def encReq (e : FieldEnc) (s : State) : Int :=
  match e with
  | .bit  => (valBool s).toNat
  | .uns  => valUnsigned s
  | .sgn  => valSigned s
  | .temp => valTenths s
  | .en6  => (valBool s).toNat
  | .nz   => (valBool s).toNat

/-- The bits a VIEW_SET writes (42_views R174, column bits written). -/
def encBits (e : FieldEnc) (L : Nat) (s : State) : Nat :=
  match e with
  | .bit  => (valBool s).toNat
  | .uns  => valUnsigned s % 2 ^ L
  | .sgn  => smEncode (valSigned s) L
  | .temp => smEncode (valTenths s) L
  | .en6  => if valBool s then 6 else 0
  | .nz   => if valBool s then s.params.filterSetCode.toNat else 0

/-- The prior decoded value the dirty rule compares with (42_views R174, column old). -/
def encOld (e : FieldEnc) (f L : Nat) : Int :=
  match e with
  | .bit  => f
  | .uns  => f
  | .sgn  => smDecode f L
  | .temp => smDecode f L
  | .en6  => if f = 6 then 1 else 0
  | .nz   => if f ≠ 0 then 1 else 0

/-- `couple(b)`: the fan-control-enable code 6 into bits 4..7 of the holding image at `b` (42_views R177). -/
def coupleWrite (m : Memory 16) (b : Nat) : Memory 16 := setf m b 4 6 4

/-- `couple(b)` answers whether fan control was not enabled before (42_views R177). -/
def coupleChanged (m : Memory 16) (b : Nat) : Bool := getf m b 4 4 != 6

/-- The effect of VIEW_SET on an in-range field (42_views R176, R177). -/
def viewStore (de : Bool) (d : FieldDesc) (s : State) : State :=
  let b := s.fldBase.toNat
  let written := setf s.wbuf b (viewOffset d s) (encBits d.enc d.len s) d.len
  let changed := encReq d.enc s != encOld d.enc (viewField d s) d.len
  { commandOk s with
    wbuf     := if d.coupled then coupleWrite written b else written
    fldDirty := dirtyAfter de (changed || (d.coupled && coupleChanged written b)) s.fldDirty }

/-- VIEW_GET: read a named field (42_views R175). -/
def execViewGet (s : State) : Host.Outcome State Fault Refusal :=
  match fieldRom s.fldSel with
  | none => .next (commandErrArg s)
  | some d =>
    .next { commandOk s with
      fldRes := if viewInRange d s then decodeEnc d.enc (viewField d s) d.len else 0 }

/-- VIEW_SET: write a named field (42_views R176). -/
def execViewSet (de : Bool) (s : State) : Host.Outcome State Fault Refusal :=
  match fieldRom s.fldSel with
  | none => .next (commandErrArg s)
  | some d => .next (if viewInRange d s then viewStore de d s else commandOk s)

/-- The register address of a group's block for unit `i` (42_views R170, R190). -/
def Group.address (g : Group) (i : Nat) : Nat :=
  if g.perUnit then g.base + g.stride * i else g.base

/-- GRP_SETUP: load ADDR, COUNT and GRP_KIND (42_views R190). -/
def execGrpSetup (s : State) : Host.Outcome State Fault Refusal :=
  match groupOfSel s.grpSel with
  | none => .next (commandErrArg s)
  | some g =>
    if g.perUnit && 63 < s.grpUnit.toNat then .next (commandErrArg s)
    else .next { commandOk s with
      addr    := BitVec.ofNat 16 (g.address s.grpUnit.toNat)
      count   := BitVec.ofNat 8 g.words
      grpKind := g.space == .holding }

end Sys2Proof.Machine
end

