-- ==== Sys2Proof/Machine/Dispatch.lean ====
section
/-! DEFINITION. Dispatch of a decoded command to its meaning (spec/40_control.md rule R120, spec/30_encoding.md rule
R91), one arm per constructor. -/

namespace Sys2Proof.Machine

def exec (i : Instr) (s : State) : Host.Outcome State Fault Refusal :=
  match i with
  -- control and CRC, opcode group 0x0_
  | .nop => Sys2Proof.Machine.execNop s
  | .crcInit => Sys2Proof.Machine.execCrcInit s
  | .crcByte imm => Sys2Proof.Machine.execCrcByte imm s
  -- codec and views, opcode group 0x1_
  | .getBit => Sys2Proof.Machine.execGetBit s
  | .setBit de => Sys2Proof.Machine.execSetBit de s
  | .getUns => Sys2Proof.Machine.execGetUns s
  | .setUns de => Sys2Proof.Machine.execSetUns de s
  | .getSgn => Sys2Proof.Machine.execGetSgn s
  | .setSgn de => Sys2Proof.Machine.execSetSgn de s
  | .getTemp => Sys2Proof.Machine.execGetTemp s
  | .setTemp de => Sys2Proof.Machine.execSetTemp de s
  | .viewGet => Sys2Proof.Machine.execViewGet s
  | .viewSet de => Sys2Proof.Machine.execViewSet de s
  | .grpSetup => Sys2Proof.Machine.execGrpSetup s
  -- RTU transactions, opcode group 0x2_
  | .rtuRdHold => Sys2Proof.Machine.execRtuRdHold s
  | .rtuRdInput => Sys2Proof.Machine.execRtuRdInput s
  | .rtuWrMulti => Sys2Proof.Machine.execRtuWrMulti s

end Sys2Proof.Machine
end

