-- ==== Sys2Proof/Machine/HostPort.lean ====
section
/-! DEFINITION. The host port (spec/10_state.md rules R20 to R45, spec/20_memory.md rules R60 to R63), the reset step
(spec/70_reset_and_hazards.md rule R310) and the direction pins (spec/10_state.md rule R48). -/

namespace Sys2Proof.Machine

/-- The value of ID, "D3NT" (10_state R21). -/
def idWord : Word := 0x44334E54

/-- The offset of CMD (10_state R20, R22). -/
def cmdOffset : Nat := 0x004

/-- The host accesses the port defines: 4 bytes, aligned, inside the window (20_memory R63). -/
def hostAccessOk (a size : Nat) : Bool := size == 4 && a % 4 == 0 && a ≤ 0xFFC

/-- The system address of a window offset (20_memory R60, 30_encoding R104). -/
def systemAddress (a : Nat) : Nat := Config.hostBase + a

/-- A host read of a buffer cell; every other offset is reserved and reads 0 (20_memory R60, R61). -/
def bufferLoad (a : Nat) (s : State) : Word :=
  if 0x100 ≤ a ∧ a ≤ 0x2FC then (Memory.read s.wbuf ((a - 0x100) / 4)).setWidth 32
  else if 0x400 ≤ a ∧ a ≤ 0x7FC then (Memory.read s.txbuf ((a - 0x400) / 4)).setWidth 32
  else if 0x800 ≤ a ∧ a ≤ 0xBFC then (Memory.read s.rxbuf ((a - 0x800) / 4)).setWidth 32
  else 0

/-- `MemRead(a, 4)`: the stored bits, every unimplemented bit 0 (10_state R20, R45). -/
def hostLoad (a : Nat) (s : State) : Word :=
  match a with
  | 0x000 => idWord
  | 0x004 => 0
  | 0x008 => statusWord s
  | 0x00C => s.slave.setWidth 32
  | 0x010 => s.addr.setWidth 32
  | 0x014 => s.count.setWidth 32
  | 0x018 => s.xbase.setWidth 32
  | 0x01C => s.timeout.setWidth 32
  | 0x020 => s.elapsed.setWidth 32
  | 0x024 => s.txlen.setWidth 32
  | 0x028 => s.rxlen.setWidth 32
  | 0x02C => s.explen.setWidth 32
  | 0x030 => s.dir.setWidth 32
  | 0x034 => s.crc.setWidth 32
  | 0x038 => s.fldBase.setWidth 32
  | 0x03C => s.fldWcnt.setWidth 32
  | 0x040 => s.fldOff.setWidth 32
  | 0x044 => s.fldLen.setWidth 32
  | 0x048 => s.fldVal
  | 0x04C => s.fldRes
  | 0x050 => (BitVec.ofBool s.fldDirty).setWidth 32
  | 0x054 => s.fldSel.setWidth 32
  | 0x058 => s.fldIdx.setWidth 32
  | 0x05C => s.grpSel.setWidth 32
  | 0x060 => s.grpUnit.setWidth 32
  | 0x064 => (BitVec.ofBool s.grpKind).setWidth 32
  | _     => bufferLoad a s

/-- A host write to a buffer cell: WBUF stores bits [15:0]; TXBUF and RXBUF are read-only and a reserved offset
changes no state (10_state R42 to R45, 20_memory R61). -/
def bufferStore (a : Nat) (v : Word) (s : State) : State :=
  if 0x100 ≤ a ∧ a ≤ 0x2FC then { s with wbuf := writeWord s.wbuf ((a - 0x100) / 4) (v.setWidth 16) }
  else s

/-- `MemWrite(a, 4, v)` at an offset other than CMD: a RW register keeps its implemented bits, a write to a RO
register changes no state (10_state R20, R45). -/
def hostStore (a : Nat) (v : Word) (s : State) : State :=
  match a with
  | 0x00C => { s with slave := v.setWidth 8 }
  | 0x010 => { s with addr := v.setWidth 16 }
  | 0x014 => { s with count := v.setWidth 8 }
  | 0x018 => { s with xbase := v.setWidth 7 }
  | 0x01C => { s with timeout := v.setWidth 16 }
  | 0x034 => { s with crc := v.setWidth 16 }
  | 0x038 => { s with fldBase := v.setWidth 7 }
  | 0x03C => { s with fldWcnt := v.setWidth 8 }
  | 0x040 => { s with fldOff := v.setWidth 12 }
  | 0x044 => { s with fldLen := v.setWidth 6 }
  | 0x048 => { s with fldVal := v }
  | 0x050 => { s with fldDirty := v.getLsbD 0 }
  | 0x054 => { s with fldSel := v.setWidth 8 }
  | 0x058 => { s with fldIdx := v.setWidth 8 }
  | 0x05C => { s with grpSel := v.setWidth 3 }
  | 0x060 => { s with grpUnit := v.setWidth 8 }
  | _     => bufferStore a v s

/-- `reset`: every register, buffer, latch and status at its reset value (70_reset R310). The parameters and the
model's own fields are no state of the block and stay (R310 "the parameters do not change"; log 11). -/
def resetStep (s : State) : State :=
  { State.resetWith s.params with inbox := s.inbox, drawIx := s.drawIx, hostRdata := s.hostRdata }

/-- The level of `txen_pin`: absent without HAS_TXEN, else its active level exactly when DIR[0] is 1
(10_state R48). -/
def txenPin (s : State) : Option Bool :=
  if s.params.hasTxen then some (if s.dir.getLsbD 0 then Config.txenActiveHigh else !Config.txenActiveHigh)
  else none

/-- The level of `rxen_pin`: absent without HAS_RXEN, else its active level exactly when DIR[1] is 1
(10_state R48). -/
def rxenPin (s : State) : Option Bool :=
  if s.params.hasRxen then some (if s.dir.getLsbD 1 then Config.rxenActiveHigh else !Config.rxenActiveHigh)
  else none

end Sys2Proof.Machine
end

