-- ==== Sys2Proof/Machine/Step.lean ====
section
/-! DEFINITION. One step of the block: the next step of the environment, taken whole (spec/10_state.md rule R50,
spec/20_memory.md rule R71). -/

namespace Sys2Proof.Machine

/-- A CMD write: decode, then run the command or report ILLEGAL (40_control R120, R123). -/
def runCommand (w : Word) (s : State) : Host.Outcome State Fault Refusal :=
  match decode w with
  | .ok i    => exec i s
  | .error _ => .next (commandIllegal s)

/-- One step of one agent (10_state R50). A host access the port does not define is refused (20_memory R63); an
event not listed for the framer's state has no effect in it (44_rtu R240). -/
def runEvent (e : Event) (s : State) : Host.Outcome State Fault Refusal :=
  match e with
  | .hostWrite a size v =>
    if hostAccessOk a size then
      if a = cmdOffset then runCommand v s else .next (hostStore a v s)
    else .refused .hostAccess
  | .hostRead a size =>
    if hostAccessOk a size then .next { s with hostRdata := hostLoad a s } else .refused .hostAccess
  | .serAccept n =>
    if s.framer = .txWrite then
      if n ≤ s.txlen.toNat then .next (acceptCount n s) else .refused .acceptCountAboveOffer
    else .next s
  | .serTxdone => .next (txDone s)
  | .serRxbyte b => .next (rxByte b s)
  | .tick => .next (tickStep s)
  | .reset => .next (resetStep s)

/-- The steps 10_state R50 enables in a state. -/
def eventEnabled (e : Event) (s : State) : Bool :=
  match e with
  | .hostWrite a size _ => hostAccessOk a size
  | .hostRead a size => hostAccessOk a size
  | .serAccept n => s.framer == .txWrite && n ≤ s.txlen.toNat
  | .serTxdone => s.framer == .txWait
  | .serRxbyte _ => true
  | .tick => true
  | .reset => true

/-- A free draw of the environment: a step that is enabled is taken, one that is not is no step (10_state R50, I16;
log 2). -/
def runDraw (e : Event) (s : State) : Host.Outcome State Fault Refusal :=
  if eventEnabled e s then runEvent e s else .next s

/-- One step: the oldest listed step of the environment, or a free draw where none is listed (log 1, log 2). -/
def step (s : State) : Host.Outcome State Fault Refusal :=
  match s.inbox with
  | e :: rest => runEvent e { s with inbox := rest }
  | [] => runDraw (Config.envDraw s.drawIx) { s with drawIx := s.drawIx + 1 }

/-- `s` with the command word of an opcode-table row as the very next step: a host write of it to CMD, ahead of
every other step (20_memory R75: "a command is the word written to CMD"; log 1). -/
def State.withFetchWord (s : State) (nbits w : Nat) : State :=
  { s with inbox := .hostWrite 0x004 4 (BitVec.ofNat 32 (w % 2 ^ nbits)) :: s.inbox }

end Sys2Proof.Machine
end

