-- ==== Sys2Proof/Safety.lean ====
section
/-! DEFINITION. What counts as a legal state of D3NET-RTU, and the terms claims are stated in: absolute bits of
WBUF, the opcode table as match and mask, and the shape of a codec set's effect. Nothing here runs. -/

namespace Sys2Proof.Machine

/-- Bit `i` of WBUF as a whole: bit `i mod 16` of word `i div 16` (20_memory R62, with the window at word 0). -/
def wbit (m : Memory 16) (i : Nat) : Bool := (Memory.read m (i / 16)).getLsbD (i % 16)

/-- The L-bit unsigned value whose bit `k` is bit `start + k` of WBUF, written as the sum of 00_scope R13. -/
def fieldSum (m : Memory 16) (start L : Nat) : Nat :=
  ∑ k ∈ Finset.range L, (wbit m (start + k)).toNat * 2 ^ k

/-- The integer a sign-magnitude field at bit `start` of WBUF means: the low L-1 bits a magnitude, the highest bit
the sign (41_codec R140). -/
def signedSum (m : Memory 16) (start L : Nat) : Int :=
  if wbit m (start + (L - 1)) then -(fieldSum m start (L - 1) : Int) else fieldSum m start (L - 1)

/-- The first bit in WBUF of the field at FLD_OFF of the codec window (10_state R33, R34). -/
def codecStart (s : State) : Nat := 16 * s.fldBase.toNat + s.fldOff.toNat

/-- The in-range condition of 41_codec R131 for a field of length `L` at FLD_OFF. -/
abbrev CodecFits (s : State) (L : Nat) : Prop :=
  s.fldBase.toNat + s.fldWcnt.toNat ≤ 128 ∧ 1 ≤ L ∧ s.fldOff.toNat + L ≤ 16 * s.fldWcnt.toNat

/-- `t` is `s` after a set command ran with CRES = OK: when it `fits`, bit `k` of the `L` bits from `start` is `bit k`,
every other bit of WBUF is as before, and FLD_DIRTY is raised exactly when DE = 1 and `changed`; when it does not, WBUF
and FLD_DIRTY are as before; and nothing else of the state changes (41_codec R131, R133). -/
def CodecSetEffect (de : Bool) (fits : Prop) (start L : Nat) (bit : Nat → Bool) (changed : Prop) (s t : State) : Prop :=
  t = { s with cres := .ok, wbuf := t.wbuf, fldDirty := t.fldDirty } ∧
  (fits →
    (∀ i, wbit t.wbuf i = if start ≤ i ∧ i < start + L then bit (i - start) else wbit s.wbuf i) ∧
    (t.fldDirty = true ↔ s.fldDirty = true ∨ (de = true ∧ changed))) ∧
  (¬ fits → t.wbuf = s.wbuf ∧ t.fldDirty = s.fldDirty)

/-- Bit `k` of the `L`-bit sign-magnitude encoding of `v`: its magnitude below, its sign on top (41_codec R140). -/
def signedBit (v : Int) (L k : Nat) : Bool :=
  if k = L - 1 then decide (v < 0) else v.natAbs.testBit k

/-- Hundredths rounded to tenths, half away from zero, by cases of the sign (41_codec R145). -/
def tenths (h : Int) : Int := if h < 0 then -((-h + 5) / 10) else (h + 5) / 10

/-- The first bit in WBUF of the field a view command addresses (42_views R172). -/
def viewStart (d : FieldDesc) (s : State) : Nat :=
  16 * s.fldBase.toNat + (if d.indexed then d.off + s.fldIdx.toNat else d.off)

/-- The in-range condition of a view access (42_views R172). -/
abbrev ViewFits (d : FieldDesc) (s : State) : Prop :=
  s.fldBase.toNat + d.group.words ≤ 128 ∧
  (if d.indexed then d.off + s.fldIdx.toNat else d.off) + d.len ≤ 16 * d.group.words ∧
  (d.indexed = true → s.fldIdx.toNat ≤ 63)

/-- The value a view gets from its field (42_views R173). -/
def viewValue (d : FieldDesc) (s : State) : Word :=
  match d.enc with
  | .bit  => BitVec.ofNat 32 (fieldSum s.wbuf (viewStart d s) d.len)
  | .uns  => BitVec.ofNat 32 (fieldSum s.wbuf (viewStart d s) d.len)
  | .sgn  => BitVec.ofInt 32 (signedSum s.wbuf (viewStart d s) d.len)
  | .temp => BitVec.ofInt 32 (signedSum s.wbuf (viewStart d s) d.len)
  | .en6  => if fieldSum s.wbuf (viewStart d s) d.len = 6 then 1 else 0
  | .nz   => if fieldSum s.wbuf (viewStart d s) d.len = 0 then 0 else 1

/-- Bit `k` of what a VIEW_SET stores in its field (42_views R174, column bits written). -/
def viewBit (d : FieldDesc) (s : State) (k : Nat) : Bool :=
  match d.enc with
  | .bit  => s.fldVal != 0
  | .uns  => s.fldVal.getLsbD k
  | .sgn  => signedBit s.fldVal.toInt d.len k
  | .temp => signedBit (tenths s.fldVal.toInt) d.len k
  | .en6  => s.fldVal != 0 && (6 : Nat).testBit k
  | .nz   => s.fldVal != 0 && s.params.filterSetCode.getLsbD k

/-- The requested value differs from the prior decoded value (42_views R174, columns req and old). -/
def ViewChanges (d : FieldDesc) (s : State) : Prop :=
  match d.enc with
  | .bit  => (s.fldVal ≠ 0 ↔ fieldSum s.wbuf (viewStart d s) d.len = 0)
  | .uns  => s.fldVal.toNat ≠ fieldSum s.wbuf (viewStart d s) d.len
  | .sgn  => s.fldVal.toInt ≠ signedSum s.wbuf (viewStart d s) d.len
  | .temp => tenths s.fldVal.toInt ≠ signedSum s.wbuf (viewStart d s) d.len
  | .en6  => ¬ (s.fldVal ≠ 0 ↔ fieldSum s.wbuf (viewStart d s) d.len = 6)
  | .nz   => (s.fldVal ≠ 0 ↔ fieldSum s.wbuf (viewStart d s) d.len = 0)

/-- `s` with the framer's state, its operands and buffers, and the CRC register taken from `u`: all that no field
codec primitive reads or writes (41_codec R130). -/
def withFramerOf (s u : State) : State :=
  { s with
    framer := u.framer, res := u.res, slave := u.slave, addr := u.addr, count := u.count, xbase := u.xbase,
    timeout := u.timeout, elapsed := u.elapsed, txlen := u.txlen, rxlen := u.rxlen, explen := u.explen,
    dir := u.dir, crc := u.crc, lat := u.lat, txbuf := u.txbuf, rxbuf := u.rxbuf }

/-- The condition 44_rtu R230 puts on the operands of an RTU command, `max` the largest COUNT it accepts. -/
abbrev ArgumentsLegal (s : State) (max : Nat) : Prop :=
  1 ≤ s.count.toNat ∧ s.count.toNat ≤ max ∧ s.xbase.toNat + s.count.toNat ≤ 128 ∧ 1 ≤ s.timeout.toNat

/-- The three RTU commands (30_encoding R91, group 0x2_). -/
def rtuCommands : List Instr := [.rtuRdHold, .rtuRdInput, .rtuWrMulti]

/-- The response bytes once byte `b` has arrived at RXLEN (44_rtu R246). -/
def responseWith (s : State) (b : Byte) (k : Nat) : Byte :=
  if k = s.rxlen.toNat then b else Memory.read s.rxbuf k

/-- The low byte and the high byte of a 16-bit value. -/
abbrev lowByte (v : BitVec 16) : Byte := v.extractLsb' 0 8
abbrev highByte (v : BitVec 16) : Byte := v.extractLsb' 8 8

/-- Bits of a group's block that no row of the field table names (42_views R178, its own list). -/
def unnamedBits : Group → List Nat
  | .stat => [1, 2, 3, 11, 15, 28, 29, 30, 31] ++ List.range' 48 48
  | .hold => [1, 2, 3, 11, 15, 24, 25, 26, 27, 28, 29, 30, 31]
  | .cap  => [5, 6, 7]
  | .err  => [22, 23, 27]
  | .sys  => List.range' 2 14

/-- A row of opcode_table.json: the mnemonic, `match` and `mask` (30_encoding R92). -/
structure OpcodeRow where
  mnemonic : String
  pattern  : Word
  mask     : Word
  deriving DecidableEq, Repr

/-- The 17 rows of opcode_table.json (30_encoding R91, R92). -/
def opcodeTable : List OpcodeRow :=
  [ ⟨"NOP", 0x00000000, 0xFFFFFFFF⟩, ⟨"CRC_INIT", 0x00000001, 0xFFFFFFFF⟩, ⟨"CRC_BYTE", 0x00000002, 0xFF00FFFF⟩,
    ⟨"GET_BIT", 0x00000010, 0xFFFFFFFF⟩, ⟨"SET_BIT", 0x00000011, 0xFFFFFEFF⟩, ⟨"GET_UNS", 0x00000012, 0xFFFFFFFF⟩,
    ⟨"SET_UNS", 0x00000013, 0xFFFFFEFF⟩, ⟨"GET_SGN", 0x00000014, 0xFFFFFFFF⟩, ⟨"SET_SGN", 0x00000015, 0xFFFFFEFF⟩,
    ⟨"GET_TEMP", 0x00000016, 0xFFFFFFFF⟩, ⟨"SET_TEMP", 0x00000017, 0xFFFFFEFF⟩, ⟨"VIEW_GET", 0x00000018, 0xFFFFFFFF⟩,
    ⟨"VIEW_SET", 0x00000019, 0xFFFFFEFF⟩, ⟨"GRP_SETUP", 0x0000001A, 0xFFFFFFFF⟩,
    ⟨"RTU_RD_HOLD", 0x00000020, 0xFFFFFFFF⟩, ⟨"RTU_RD_INPUT", 0x00000021, 0xFFFFFFFF⟩,
    ⟨"RTU_WR_MULTI", 0x00000022, 0xFFFFFFFF⟩ ]

/-- The mnemonic of a command (30_encoding R91). -/
def mnemonicOf : Instr → String
  | .nop => "NOP" | .crcInit => "CRC_INIT" | .crcByte _ => "CRC_BYTE"
  | .getBit => "GET_BIT" | .setBit _ => "SET_BIT" | .getUns => "GET_UNS" | .setUns _ => "SET_UNS"
  | .getSgn => "GET_SGN" | .setSgn _ => "SET_SGN" | .getTemp => "GET_TEMP" | .setTemp _ => "SET_TEMP"
  | .viewGet => "VIEW_GET" | .viewSet _ => "VIEW_SET" | .grpSetup => "GRP_SETUP"
  | .rtuRdHold => "RTU_RD_HOLD" | .rtuRdInput => "RTU_RD_INPUT" | .rtuWrMulti => "RTU_WR_MULTI"

/-- The host registers a write is stored in, with the mask of their implemented bits (10_state R20, access RW). -/
def rwRegisters : List (Nat × Word) :=
  [ (0x00C, 0xFF), (0x010, 0xFFFF), (0x014, 0xFF), (0x018, 0x7F), (0x01C, 0xFFFF), (0x034, 0xFFFF), (0x038, 0x7F),
    (0x03C, 0xFF), (0x040, 0xFFF), (0x044, 0x3F), (0x048, 0xFFFFFFFF), (0x050, 0x1), (0x054, 0xFF), (0x058, 0xFF),
    (0x05C, 0x7), (0x060, 0xFF) ]

/-- The host registers a write changes nothing at: access RO (10_state R20, R45). -/
def roRegisters : List Nat := [0x000, 0x008, 0x020, 0x024, 0x028, 0x02C, 0x030, 0x04C, 0x064]

/-- The reserved offsets of the host window (20_memory R61). -/
abbrev ReservedOffset (a : Nat) : Prop :=
  (0x068 ≤ a ∧ a ≤ 0x0FC) ∨ (0x300 ≤ a ∧ a ≤ 0x3FC) ∨ (0xC00 ≤ a ∧ a ≤ 0xFFC)

/-- The framer is transmitting: TX_WRITE or TX_WAIT. -/
abbrev Transmitting (s : State) : Prop := s.framer = .txWrite ∨ s.framer = .txWait

/-- DIR is asserted exactly while transmitting, and 0b00 at every other time (10_state R31, 44_rtu R251). -/
abbrev DirLegal (s : State) : Prop :=
  s.dir = if s.framer = .txWrite ∨ s.framer = .txWait then dirAsserted s.params else 0

/-- RES is PENDING exactly while BUSY = 1 (10_state R23, 60_exceptions R280). -/
abbrev ResLegal (s : State) : Prop := s.res = .pending ↔ s.framer ≠ .idle

/-- TXLEN, RXLEN and EXPLEN take values 0..256 (10_state R30), and RXLEN never exceeds EXPLEN (44_rtu R246). -/
abbrev LengthsLegal (s : State) : Prop :=
  s.txlen.toNat ≤ 256 ∧ s.explen.toNat ≤ 256 ∧ s.rxlen.toNat ≤ s.explen.toNat

/-- The latched arguments of a running transaction passed the argument check (44_rtu R230), the function code is
the operation's (44_rtu R231), the lengths are the operation's (44_rtu R224, 30_encoding R102), the deadline is not
reached (10_state R52), and no response byte is stored before RX nor beyond the response (44_rtu R246). -/
abbrev TransactionLegal (s : State) : Prop :=
  s.framer ≠ .idle →
    (1 ≤ s.lat.count.toNat ∧ s.lat.count.toNat ≤ maxCount s.params s.lat.op) ∧
    s.lat.xbase.toNat + s.lat.count.toNat ≤ 128 ∧
    s.elapsed.toNat < s.lat.timeout.toNat ∧
    (s.lat.op = .read → (s.lat.fc = 0x03 ∨ s.lat.fc = 0x04) ∧ s.txlen.toNat = 8 ∧
      s.explen.toNat = 5 + 2 * s.lat.count.toNat) ∧
    (s.lat.op = .write → s.lat.fc = 0x10 ∧ s.txlen.toNat = 9 + 2 * s.lat.count.toNat ∧ s.explen.toNat = 8) ∧
    s.rxlen.toNat < s.explen.toNat ∧
    (s.framer ≠ .rx → s.rxlen = 0)

/-- The three buffers are in their canonical form (log 8). -/
abbrev BuffersLegal (s : State) : Prop :=
  Memory.wf Config.wbufWords s.wbuf ∧ Memory.wf Config.rtuBufBytes s.txbuf ∧ Memory.wf Config.rtuBufBytes s.rxbuf

/-- The invariant of the block: the parameters meet their constraints (00_scope R7) and the state is legal. -/
abbrev State.Inv (s : State) : Prop :=
  s.params.wf ∧ DirLegal s ∧ ResLegal s ∧ LengthsLegal s ∧ TransactionLegal s ∧ BuffersLegal s

end Sys2Proof.Machine
end

