-- ==== Sys2Proof/Certificates/Slice0/Obligations.lean ====
section
/-! DEFINITION. The statements about D3NET-RTU for the provers, each from the numbered rules of spec/. Log entries
named "log n" are notes/assumptions/n.md. -/

open Sys2Proof Sys2Proof.Machine

/-! ### Encoding (spec/30_encoding.md) -/

/-- Decode and encode agree on every command, at every value of DE and IMM8: the fields of a command's word pass the
four checks, and the word decodes to the command. -/
def Obligations.DecodeOfEncode : Prop :=
  ∀ i : Instr, i.wf = true ∧ decode (encode i) = .ok i

/-- Each legal word is the word of the command it decodes to: no two words mean the same command. -/
def Obligations.EncodeOfDecode : Prop :=
  ∀ (w : Word) (i : Instr), decode w = .ok i → encode i = w

/-- R92: a word decodes to a row's command exactly when `(w & mask) = match`, DE and IMM8 being its bits 8 and
[23:16]; no two rows match the same word. -/
def Obligations.TableRowDecodes : Prop :=
  (∀ row ∈ opcodeTable, ∀ w : Word,
    (∃ i, decode w = .ok i ∧ mnemonicOf i = row.mnemonic) ↔ w &&& row.mask = row.pattern) ∧
  (∀ (w : Word) (i : Instr), decode w = .ok i →
    i.dirtyEnable = w.getLsbD 8 ∧ i.immediate = w.extractLsb' 16 8) ∧
  (∀ (w : Word), ∀ r₁ ∈ opcodeTable, ∀ r₂ ∈ opcodeTable,
    w &&& r₁.mask = r₁.pattern → w &&& r₂.mask = r₂.pattern → r₁ = r₂)

/-- R93 and R123: the illegal words are exactly those of the four cases, and a CMD write of one changes nothing but
CRES, whatever the framer does. -/
def Obligations.IllegalWordOnlySetsCres : Prop :=
  ∀ w : Word,
    ((∃ r, decode w = .error r) ↔
      ((0x03 ≤ (w.extractLsb' 0 8).toNat ∧ (w.extractLsb' 0 8).toNat ≤ 0x0F) ∨
        (0x1B ≤ (w.extractLsb' 0 8).toNat ∧ (w.extractLsb' 0 8).toNat ≤ 0x1F) ∨
        0x23 ≤ (w.extractLsb' 0 8).toNat) ∨
      (w.extractLsb' 9 7 ≠ 0 ∨ w.extractLsb' 24 8 ≠ 0) ∨
      (w.getLsbD 8 = true ∧ (w.extractLsb' 0 8).toNat ∉ [0x11, 0x13, 0x15, 0x17, 0x19]) ∨
      (w.extractLsb' 16 8 ≠ 0 ∧ (w.extractLsb' 0 8).toNat ≠ 0x02)) ∧
    ((∃ r, decode w = .error r) →
      ∀ s : State, runEvent (.hostWrite 0x004 4 w) s = .next { s with cres := .illegal })

/-- Words of R105, written out in hexadecimal, decode to the commands they stand for. -/
def Obligations.SpecWordsDecode : Prop :=
  decode 0x00000000 = .ok .nop ∧ decode 0x00000001 = .ok .crcInit ∧ decode 0x000A0002 = .ok (.crcByte 0x0A) ∧
  decode 0x00000010 = .ok .getBit ∧ decode 0x00000111 = .ok (.setBit true) ∧ decode 0x00000013 = .ok (.setUns false) ∧
  decode 0x00000014 = .ok .getSgn ∧ decode 0x00000117 = .ok (.setTemp true) ∧ decode 0x00000018 = .ok .viewGet ∧
  decode 0x00000119 = .ok (.viewSet true) ∧ decode 0x0000001A = .ok .grpSetup ∧ decode 0x00000020 = .ok .rtuRdHold ∧
  decode 0x00000021 = .ok .rtuRdInput ∧ decode 0x00000022 = .ok .rtuWrMulti

/-! ### Steps and dispatch (spec/10_state.md section 9, spec/40_control.md) -/

/-- A step takes the oldest listed step of the environment whole; when that is a write to CMD of a word that decodes
to a command, it runs exactly that command, on the state with the step taken off the list (the list is the model's,
log 1). -/
def Obligations.StepRunsDecodedCommand : Prop :=
  ∀ (s : State) (rest : List Event),
    (∀ e, s.inbox = e :: rest → step s = runEvent e { s with inbox := rest }) ∧
    (∀ (w : Word) (i : Instr), s.inbox = .hostWrite 0x004 4 w :: rest → decode w = .ok i →
      step s = exec i { s with inbox := rest })

/-- The block is always able to take a step that is enabled, and never faults: every enabled step answers a next state,
and so does the step of a state whose list is empty, whatever the environment draws (the draw is the model's free
value, log 2). -/
def Obligations.EveryEnabledStepCompletes : Prop :=
  (∀ (e : Event) (s : State), eventEnabled e s = true → ∃ t, runEvent e s = .next t) ∧
  (∀ s : State, s.inbox = [] → ∃ t, step s = .next t)

/-- A host access is refused exactly when it is not an aligned 32-bit access of the window. For a narrower, wider or
misaligned access that is R63's sentence; for an aligned one above 0xFFC it is the model's deduction (log 6). -/
def Obligations.UndefinedHostAccessRefused : Prop :=
  ∀ (a size : Nat) (v : Word) (s : State),
    (runEvent (.hostWrite a size v) s = .refused .hostAccess ↔ ¬ (size = 4 ∧ a % 4 = 0 ∧ a ≤ 0xFFC)) ∧
    (runEvent (.hostRead a size) s = .refused .hostAccess ↔ ¬ (size = 4 ∧ a % 4 = 0 ∧ a ≤ 0xFFC))

/-- Only CMD writes and reset change CRES. -/
def Obligations.CresChangesOnlyByCommand : Prop :=
  ∀ (e : Event) (s t : State), runEvent e s = .next t → t.cres ≠ s.cres →
    e = .reset ∨ ∃ w, e = .hostWrite 0x004 4 w

/-- R122: an RTU command written while BUSY = 1 changes nothing but CRES, and every other command does exactly what it
does in any other state of the framer. -/
def Obligations.BusyRejection : Prop :=
  (∀ i ∈ rtuCommands, ∀ s : State, s.framer ≠ .idle → exec i s = .next { s with cres := .busyRej }) ∧
  (∀ (i : Instr) (s t : State) (f : FramerState), i ∉ rtuCommands → exec i s = .next t →
    exec i { s with framer := f } = .next { t with framer := f })

/-- The codes a command can leave in CRES and what it may do to RES, family by family; a command rejected by a CRES code
changes nothing but CRES. -/
def Obligations.CommandResultCodes : Prop :=
  ∀ (i : Instr) (s t : State), exec i s = .next t →
    (t.cres = .ok ∨ (t.cres = .errArg ∧ (i = .viewGet ∨ (∃ de, i = .viewSet de) ∨ i = .grpSetup)) ∨
      (t.cres = .busyRej ∧ i ∈ rtuCommands ∧ s.framer ≠ .idle)) ∧
    (t.cres ≠ .ok → t = { s with cres := t.cres }) ∧
    (i ∉ rtuCommands → t.res = s.res) ∧
    (i ∈ rtuCommands → t.cres = .ok →
      (t.res = .errArg ∧ t = { s with cres := .ok, res := .errArg }) ∨ (t.res = .pending ∧ t.framer = .txWrite))

/-! ### NOP and the CRC engine (spec/40_control.md, spec/43_crc.md) -/

/-- R125 and R203: NOP is the word 0 exactly and changes nothing but CRES; CRC_INIT is the word 1 exactly and sets CRC to
0xFFFF. -/
def Obligations.NopAndCrcInit : Prop :=
  (∀ w : Word, (decode w = .ok .nop ↔ w = 0x00000000) ∧ (decode w = .ok .crcInit ↔ w = 0x00000001)) ∧
  ∀ s : State,
    exec .nop s = .next { s with cres := .ok } ∧
    exec .crcInit s = .next { s with cres := .ok, crc := 0xFFFF }

/-- R200 and R204: CRC_BYTE, with the byte in bits [23:16] of its word, puts the byte into the low 8 bits of CRC and shifts
eight times, LSB first, with 0xA001. -/
def Obligations.CrcByteAdvancesCrc : Prop :=
  ∀ (b : Byte) (s : State),
    decode (BitVec.ofNat 32 (0x10000 * b.toNat + 0x0002)) = .ok (.crcByte b) ∧
    exec (.crcByte b) s = .next { s with
      cres := .ok
      crc  := (fun c : BitVec 16 => if c.getLsbD 0 = true then (c >>> 1) ^^^ 0xA001 else c >>> 1)^[8]
                (s.crc ^^^ b.setWidth 16) }

/-- After CRC_INIT and one CRC_BYTE per byte of a body, as words written to CMD, CRC holds the CRC of the body and
nothing else has changed; its low byte and its high byte are the two CRC bytes to send; the body 01 03 00 00 00 0A gives
0xCDC5, sent as C5 CD (the words come from the model's list of steps, log 1). -/
def Obligations.CrcOfBodyByCommands : Prop :=
  (∀ (body : List Byte) (s : State) (rest : List Event),
    s.inbox = .hostWrite 0x004 4 0x00000001 ::
      (body.map (fun b => Event.hostWrite 0x004 4 (BitVec.ofNat 32 (0x10000 * b.toNat + 0x0002))) ++ rest) →
    core.run (body.length + 1) s = .next { s with inbox := rest, cres := .ok, crc := crc16 body }) ∧
  (∀ body : List Byte, withCrc body = body ++ [lowByte (crc16 body), highByte (crc16 body)]) ∧
  crc16 [0x01, 0x03, 0x00, 0x00, 0x00, 0x0A] = 0xCDC5 ∧
  withCrc [0x01, 0x03, 0x00, 0x00, 0x00, 0x0A] = [0x01, 0x03, 0x00, 0x00, 0x00, 0x0A, 0xC5, 0xCD]

/-- The CRC of a whole correct frame, its CRC bytes included, is 0. -/
def Obligations.FrameResidueZero : Prop :=
  ∀ body : List Byte, crc16 (body ++ [lowByte (crc16 body), highByte (crc16 body)]) = 0

/-- Changing one byte of a body, whichever, changes its CRC. -/
def Obligations.CrcSeesOneByteChange : Prop :=
  ∀ (xs ys : List Byte) (x x' : Byte), x ≠ x' → crc16 (xs ++ x :: ys) ≠ crc16 (xs ++ x' :: ys)

/-! ### Field codec primitives (spec/41_codec.md) -/

/-- R135: GET_BIT puts the bit, or 0 when it is out of range, in FLD_RES, and changes nothing else but CRES. -/
def Obligations.GetBitResult : Prop :=
  decode 0x00000010 = .ok .getBit ∧
  ∀ s : State, exec .getBit s = .next { s with
    cres   := .ok
    fldRes := if CodecFits s 1 then (if wbit s.wbuf (codecStart s) = true then 1 else 0) else 0 }

/-- R137: GET_UNS puts the L-bit field, zero-extended, in FLD_RES, or 0 for a length outside 1..32 or a field out of
range. -/
def Obligations.GetUnsResult : Prop :=
  decode 0x00000012 = .ok .getUns ∧
  ∀ s : State, exec .getUns s = .next { s with
    cres   := .ok
    fldRes := if (1 ≤ s.fldLen.toNat ∧ s.fldLen.toNat ≤ 32) ∧ CodecFits s s.fldLen.toNat
              then BitVec.ofNat 32 (fieldSum s.wbuf (codecStart s) s.fldLen.toNat) else 0 }

/-- R141 and R146: GET_SGN and GET_TEMP put the sign-magnitude field's integer, in two's complement, in FLD_RES, or 0 for
a length outside 2..32 or a field out of range. -/
def Obligations.GetSignedResult : Prop :=
  decode 0x00000014 = .ok .getSgn ∧ decode 0x00000016 = .ok .getTemp ∧
  ∀ s : State, ∀ i ∈ [Instr.getSgn, Instr.getTemp], exec i s = .next { s with
    cres   := .ok
    fldRes := if (2 ≤ s.fldLen.toNat ∧ s.fldLen.toNat ≤ 32) ∧ CodecFits s s.fldLen.toNat
              then BitVec.ofInt 32 (signedSum s.wbuf (codecStart s) s.fldLen.toNat) else 0 }

/-- R136: SET_BIT writes the one bit from FLD_VAL as a boolean; dirty compares it with the bit before. -/
def Obligations.SetBitEffect : Prop :=
  decode 0x00000011 = .ok (.setBit false) ∧ decode 0x00000111 = .ok (.setBit true) ∧
  ∀ (de : Bool) (s : State), ∃ t, exec (.setBit de) s = .next t ∧
    CodecSetEffect de (CodecFits s 1) (codecStart s) 1 (fun _ => s.fldVal != 0)
      ((s.fldVal != 0) ≠ wbit s.wbuf (codecStart s)) s t

/-- R138: SET_UNS stores the low L bits of FLD_VAL; dirty compares the whole of FLD_VAL with the field before. -/
def Obligations.SetUnsEffect : Prop :=
  decode 0x00000013 = .ok (.setUns false) ∧ decode 0x00000113 = .ok (.setUns true) ∧
  ∀ (de : Bool) (s : State), ∃ t, exec (.setUns de) s = .next t ∧
    CodecSetEffect de ((1 ≤ s.fldLen.toNat ∧ s.fldLen.toNat ≤ 32) ∧ CodecFits s s.fldLen.toNat) (codecStart s)
      s.fldLen.toNat (fun k => s.fldVal.getLsbD k)
      (s.fldVal.toNat ≠ fieldSum s.wbuf (codecStart s) s.fldLen.toNat) s t

/-- R142: SET_SGN stores FLD_VAL as a sign-magnitude value, its magnitude cut to L-1 bits and its sign kept; dirty
compares the requested value with the decoded value before. -/
def Obligations.SetSgnEffect : Prop :=
  decode 0x00000015 = .ok (.setSgn false) ∧ decode 0x00000115 = .ok (.setSgn true) ∧
  ∀ (de : Bool) (s : State), ∃ t, exec (.setSgn de) s = .next t ∧
    CodecSetEffect de ((2 ≤ s.fldLen.toNat ∧ s.fldLen.toNat ≤ 32) ∧ CodecFits s s.fldLen.toNat) (codecStart s)
      s.fldLen.toNat (signedBit s.fldVal.toInt s.fldLen.toNat)
      (s.fldVal.toInt ≠ signedSum s.wbuf (codecStart s) s.fldLen.toNat) s t

/-- R147: SET_TEMP rounds FLD_VAL's hundredths to tenths, half away from zero, and stores the tenths as a sign-magnitude
value; dirty compares the tenths with the decoded value before. -/
def Obligations.SetTempEffect : Prop :=
  decode 0x00000017 = .ok (.setTemp false) ∧ decode 0x00000117 = .ok (.setTemp true) ∧
  ∀ (de : Bool) (s : State), ∃ t, exec (.setTemp de) s = .next t ∧
    CodecSetEffect de ((2 ≤ s.fldLen.toNat ∧ s.fldLen.toNat ≤ 32) ∧ CodecFits s s.fldLen.toNat) (codecStart s)
      s.fldLen.toNat (signedBit (tenths s.fldVal.toInt) s.fldLen.toNat)
      (tenths s.fldVal.toInt ≠ signedSum s.wbuf (codecStart s) s.fldLen.toNat) s t

/-- R139, for an in-range field with 1 <= L <= 32: SET_UNS of a value of L bits then GET_UNS returns it; SET_UNS changes
only the L bits of its field; GET_UNS of an all-zero buffer returns 0. -/
def Obligations.UnsignedRoundTrip : Prop :=
  ∀ (de : Bool) (s t u : State), 1 ≤ s.fldLen.toNat → s.fldLen.toNat ≤ 32 → CodecFits s s.fldLen.toNat →
    exec (.setUns de) s = .next t → exec .getUns t = .next u →
    (s.fldVal.toNat < 2 ^ s.fldLen.toNat → u.fldRes = s.fldVal) ∧
    (∀ i, ¬ (codecStart s ≤ i ∧ i < codecStart s + s.fldLen.toNat) → wbit t.wbuf i = wbit s.wbuf i) ∧
    ((∀ i, wbit s.wbuf i = false) → ∀ z, exec .getUns s = .next z → z.fldRes = 0)

/-- R143, for an in-range field with 2 <= L <= 32: SET_SGN of a representable v then GET_SGN returns v; a negative v sets
the field's top bit; the fields of m and -m differ only in that bit. -/
def Obligations.SignedRoundTrip : Prop :=
  ∀ (de : Bool) (s t u : State), 2 ≤ s.fldLen.toNat → s.fldLen.toNat ≤ 32 → CodecFits s s.fldLen.toNat →
    s.fldVal.toInt.natAbs ≤ 2 ^ (s.fldLen.toNat - 1) - 1 →
    exec (.setSgn de) s = .next t → exec .getSgn t = .next u →
    u.fldRes = s.fldVal ∧
    (s.fldVal.toInt < 0 → wbit t.wbuf (codecStart s + (s.fldLen.toNat - 1)) = true) ∧
    (∀ n, exec (.setSgn de) { s with fldVal := -s.fldVal } = .next n →
      ∀ i, i ≠ codecStart s + (s.fldLen.toNat - 1) → wbit n.wbuf i = wbit t.wbuf i)

/-- R148: SET_TEMP of ten times a representable number of tenths then GET_TEMP returns it; SET_TEMP of 2346 then GET_TEMP
returns 235, where 235 is representable; two values that round alike store the same bits. -/
def Obligations.TemperatureRoundTrip : Prop :=
  ∀ (de : Bool) (s t u : State), 2 ≤ s.fldLen.toNat → s.fldLen.toNat ≤ 32 → CodecFits s s.fldLen.toNat →
    exec (.setTemp de) s = .next t → exec .getTemp t = .next u →
    (∀ t10 : Int, s.fldVal.toInt = 10 * t10 → t10.natAbs ≤ 2 ^ (s.fldLen.toNat - 1) - 1 →
      u.fldRes = BitVec.ofInt 32 t10) ∧
    (s.fldVal = 2346 → 235 ≤ 2 ^ (s.fldLen.toNat - 1) - 1 → u.fldRes = 235) ∧
    (∀ (v : Word) (n : State), rhaz10 v.toInt = rhaz10 s.fldVal.toInt →
      exec (.setTemp de) { s with fldVal := v } = .next n → ∀ i, wbit n.wbuf i = wbit t.wbuf i)

/-- No field codec primitive reads or writes the framer's state, operands and buffers or the CRC register. -/
def Obligations.CodecIgnoresFramer : Prop :=
  ∀ (de : Bool), ∀ i ∈ [Instr.getBit, .setBit de, .getUns, .setUns de, .getSgn, .setSgn de, .getTemp, .setTemp de],
    ∀ s t u : State, exec i s = .next t → exec i (withFramerOf s u) = .next (withFramerOf t u)

/-! ### Typed views (spec/42_views.md) -/

/-- R175: VIEW_GET reports ERR_ARG for an invalid FLD_SEL and changes nothing else; otherwise it puts the field's decoded
value in FLD_RES, or 0 when it is out of range. -/
def Obligations.ViewGetResult : Prop :=
  decode 0x00000018 = .ok .viewGet ∧
  ∀ s : State,
    (fieldRom s.fldSel = none → exec .viewGet s = .next { s with cres := .errArg }) ∧
    (∀ d, fieldRom s.fldSel = some d → exec .viewGet s = .next { s with
      cres   := .ok
      fldRes := if ViewFits d s then viewValue d s else 0 })

/-- R176: VIEW_SET reports ERR_ARG for an invalid FLD_SEL and changes nothing else; an in-range field is written by its
encoding, a coupled one (HD_FAN_DIR and HD_FAN_SPEED) also puts code 6 in bits 4..7 of the holding image, every other bit of
WBUF is as before, and FLD_DIRTY is raised exactly when DE = 1 and the field's value or the enable changed; out of range
nothing happens. -/
def Obligations.ViewSetEffect : Prop :=
  decode 0x00000019 = .ok (.viewSet false) ∧ decode 0x00000119 = .ok (.viewSet true) ∧
  ∀ (de : Bool) (s : State),
    (fieldRom s.fldSel = none → exec (.viewSet de) s = .next { s with cres := .errArg }) ∧
    (∀ d, fieldRom s.fldSel = some d → (d.coupled = true ↔ s.fldSel = 0x32 ∨ s.fldSel = 0x33) ∧
      ∃ t, exec (.viewSet de) s = .next t ∧
      t = { s with cres := .ok, wbuf := t.wbuf, fldDirty := t.fldDirty } ∧
      (ViewFits d s →
        (∀ i, wbit t.wbuf i =
          if viewStart d s ≤ i ∧ i < viewStart d s + d.len then viewBit d s (i - viewStart d s)
          else if d.coupled = true ∧ 16 * s.fldBase.toNat + 4 ≤ i ∧ i < 16 * s.fldBase.toNat + 8 then
            (6 : Nat).testBit (i - (16 * s.fldBase.toNat + 4))
          else wbit s.wbuf i) ∧
        (t.fldDirty = true ↔ s.fldDirty = true ∨ (de = true ∧
          (ViewChanges d s ∨ (d.coupled = true ∧ fieldSum s.wbuf (16 * s.fldBase.toNat + 4) 4 ≠ 6))))) ∧
      (¬ ViewFits d s → t.wbuf = s.wbuf ∧ t.fldDirty = s.fldDirty))

/-- A value set through a view is the value it gets back: the boolean, the low bits of an unsigned value, the integer or
the tenths of a representable signed one. -/
def Obligations.ViewRoundTrip : Prop :=
  ∀ (de : Bool) (s t u : State) (d : FieldDesc), s.params.wf → fieldRom s.fldSel = some d → ViewFits d s →
    exec (.viewSet de) s = .next t → exec .viewGet t = .next u →
    (d.enc = .bit ∨ d.enc = .en6 ∨ d.enc = .nz → u.fldRes = if s.fldVal = 0 then 0 else 1) ∧
    (d.enc = .uns → u.fldRes = BitVec.ofNat 32 (s.fldVal.toNat % 2 ^ d.len)) ∧
    (d.enc = .sgn → s.fldVal.toInt.natAbs < 2 ^ (d.len - 1) → u.fldRes = s.fldVal) ∧
    (d.enc = .temp → (tenths s.fldVal.toInt).natAbs < 2 ^ (d.len - 1) →
      u.fldRes = BitVec.ofInt 32 (tenths s.fldVal.toInt))

/-- The field table names the ids of R171 and no other, every field lies inside its group's block at every legal index, and
no two fields of a group share a bit. -/
def Obligations.ViewFieldsLieApart : Prop :=
  (∀ sel : BitVec 8, (fieldRom sel).isSome = true ↔
    sel.toNat ≤ 0x03 ∨ (0x10 ≤ sel.toNat ∧ sel.toNat ≤ 0x1C) ∨ (0x20 ≤ sel.toNat ∧ sel.toNat ≤ 0x27) ∨
    (0x30 ≤ sel.toNat ∧ sel.toNat ≤ 0x35) ∨ sel.toNat = 0x37 ∨ (0x40 ≤ sel.toNat ∧ sel.toNat ≤ 0x46)) ∧
  (∀ r ∈ fieldRows, 1 ≤ r.2.len ∧ r.2.off + (if r.2.indexed then 63 else 0) + r.2.len ≤ 16 * r.2.group.words) ∧
  (fieldRows.Pairwise fun a b => a.2.group = b.2.group →
    a.2.off + (if a.2.indexed then 63 else 0) + a.2.len ≤ b.2.off ∨
    b.2.off + (if b.2.indexed then 63 else 0) + b.2.len ≤ a.2.off)

/-- R171: the descriptor of every FLD_SEL value, row by row (group, offset, length, encoding, indexed, coupled), every value
not listed being invalid; the groups are numbered 0 to 4, of 9, 3, 6, 3 and 2 words. -/
def Obligations.FieldTableRows : Prop :=
  [groupOfSel 0, groupOfSel 1, groupOfSel 2, groupOfSel 3, groupOfSel 4] =
    [some .sys, some .cap, some .stat, some .hold, some .err] ∧
  [Group.sys.words, Group.cap.words, Group.stat.words, Group.hold.words, Group.err.words] = [9, 3, 6, 3, 2] ∧
  ∀ sel : BitVec 8, fieldRom sel = match sel.toNat with
    | 0x00 => some ⟨.sys, 0, 1, .bit, false, false⟩      -- SYS_INIT
    | 0x01 => some ⟨.sys, 1, 1, .bit, false, false⟩      -- SYS_OTHER_MASTER
    | 0x02 => some ⟨.sys, 16, 1, .bit, true, false⟩      -- SYS_CONNECTED
    | 0x03 => some ⟨.sys, 80, 1, .bit, true, false⟩      -- SYS_ERROR
    | 0x10 => some ⟨.cap, 0, 1, .bit, false, false⟩      -- CAP_FAN_MODE
    | 0x11 => some ⟨.cap, 1, 1, .bit, false, false⟩      -- CAP_COOL_MODE
    | 0x12 => some ⟨.cap, 2, 1, .bit, false, false⟩      -- CAP_HEAT_MODE
    | 0x13 => some ⟨.cap, 3, 1, .bit, false, false⟩      -- CAP_AUTO_MODE
    | 0x14 => some ⟨.cap, 4, 1, .bit, false, false⟩      -- CAP_DRY_MODE
    | 0x15 => some ⟨.cap, 11, 1, .bit, false, false⟩     -- CAP_FAN_DIR_SUP
    | 0x16 => some ⟨.cap, 8, 3, .uns, false, false⟩      -- CAP_FAN_DIR_STEPS
    | 0x17 => some ⟨.cap, 15, 1, .bit, false, false⟩     -- CAP_FAN_SPD_SUP
    | 0x18 => some ⟨.cap, 12, 3, .uns, false, false⟩     -- CAP_FAN_SPD_STEPS
    | 0x19 => some ⟨.cap, 16, 8, .sgn, false, false⟩     -- CAP_COOL_UPPER
    | 0x1A => some ⟨.cap, 24, 8, .sgn, false, false⟩     -- CAP_COOL_LOWER
    | 0x1B => some ⟨.cap, 32, 8, .sgn, false, false⟩     -- CAP_HEAT_UPPER
    | 0x1C => some ⟨.cap, 40, 8, .sgn, false, false⟩     -- CAP_HEAT_LOWER
    | 0x20 => some ⟨.stat, 0, 1, .bit, false, false⟩     -- ST_POWER
    | 0x21 => some ⟨.stat, 4, 4, .en6, false, false⟩     -- ST_FAN_CTRL_EN
    | 0x22 => some ⟨.stat, 8, 3, .uns, false, false⟩     -- ST_FAN_DIR
    | 0x23 => some ⟨.stat, 12, 3, .uns, false, false⟩    -- ST_FAN_SPEED
    | 0x24 => some ⟨.stat, 16, 4, .uns, false, false⟩    -- ST_MODE
    | 0x25 => some ⟨.stat, 20, 4, .nz, false, false⟩     -- ST_FILTER
    | 0x26 => some ⟨.stat, 24, 4, .uns, false, false⟩    -- ST_CURRENT_MODE
    | 0x27 => some ⟨.stat, 32, 16, .temp, false, false⟩  -- ST_SETPOINT
    | 0x30 => some ⟨.hold, 0, 1, .bit, false, false⟩     -- HD_POWER
    | 0x31 => some ⟨.hold, 4, 4, .en6, false, false⟩     -- HD_FAN_CTRL_EN
    | 0x32 => some ⟨.hold, 8, 3, .uns, false, true⟩      -- HD_FAN_DIR
    | 0x33 => some ⟨.hold, 12, 3, .uns, false, true⟩     -- HD_FAN_SPEED
    | 0x34 => some ⟨.hold, 16, 4, .uns, false, false⟩    -- HD_MODE
    | 0x35 => some ⟨.hold, 20, 4, .nz, false, false⟩     -- HD_FILTER_RESET
    | 0x37 => some ⟨.hold, 32, 16, .temp, false, false⟩  -- HD_SETPOINT
    | 0x40 => some ⟨.err, 0, 8, .uns, false, false⟩      -- ER_CHAR0
    | 0x41 => some ⟨.err, 8, 8, .uns, false, false⟩      -- ER_CHAR1
    | 0x42 => some ⟨.err, 16, 6, .uns, false, false⟩     -- ER_SUBCODE
    | 0x43 => some ⟨.err, 24, 1, .bit, false, false⟩     -- ER_ERROR
    | 0x44 => some ⟨.err, 25, 1, .bit, false, false⟩     -- ER_ALARM
    | 0x45 => some ⟨.err, 26, 1, .bit, false, false⟩     -- ER_WARNING
    | 0x46 => some ⟨.err, 28, 4, .uns, false, false⟩     -- ER_UNIT_NO
    | _ => none

/-- No VIEW_SET writes a bit of a group's block that the field table does not name. -/
def Obligations.UnnamedBitsUntouched : Prop :=
  ∀ (de : Bool) (s t : State) (d : FieldDesc), fieldRom s.fldSel = some d → exec (.viewSet de) s = .next t →
    ∀ b ∈ unnamedBits d.group, wbit t.wbuf (16 * s.fldBase.toNat + b) = wbit s.wbuf (16 * s.fldBase.toNat + b)

/-- R190: GRP_SETUP reports ERR_ARG for a group above 4 or a unit above 63 of a per-unit group and changes nothing else;
otherwise it loads ADDR, COUNT and GRP_KIND from the group table. -/
def Obligations.GroupSetupResult : Prop :=
  decode 0x0000001A = .ok .grpSetup ∧
  ∀ s : State, exec .grpSetup s = .next (
    if 4 < s.grpSel.toNat ∨ (s.grpSel.toNat ≠ 0 ∧ 63 < s.grpUnit.toNat) then { s with cres := .errArg }
    else { s with
      cres    := .ok
      addr    := BitVec.ofNat 16 (
        if s.grpSel.toNat = 0 then 0 else if s.grpSel.toNat = 1 then 1000 + 3 * s.grpUnit.toNat
        else if s.grpSel.toNat = 2 then 2000 + 6 * s.grpUnit.toNat
        else if s.grpSel.toNat = 3 then 2000 + 3 * s.grpUnit.toNat else 3600 + 2 * s.grpUnit.toNat)
      count   := if s.grpSel.toNat = 0 then 9 else if s.grpSel.toNat = 1 then 3 else if s.grpSel.toNat = 2 then 6
                 else if s.grpSel.toNat = 3 then 3 else 2
      grpKind := decide (s.grpSel.toNat = 3) })

/-! ### RTU commands (spec/44_rtu.md sections 1 to 3) -/

/-- R230: an RTU command with COUNT zero or above its maximum, a data window that leaves WBUF, or TIMEOUT zero sets RES to
ERR_ARG (with CRES = OK) and changes nothing else. -/
def Obligations.RtuArgumentError : Prop :=
  ∀ s : State, s.framer = .idle →
    (∀ i ∈ [Instr.rtuRdHold, Instr.rtuRdInput], ¬ ArgumentsLegal s s.params.maxReadCount →
      exec i s = .next { s with cres := .ok, res := .errArg }) ∧
    (¬ ArgumentsLegal s s.params.maxWriteCount →
      exec .rtuWrMulti s = .next { s with cres := .ok, res := .errArg })

/-- R97 and R221: a read command with legal arguments in IDLE latches its operands, builds the 8-byte request
into TXBUF (bytes from TXLEN up keep what they held), asserts the existing direction outputs and offers the frame. -/
def Obligations.ReadRequestAccepted : Prop :=
  ∀ s : State, s.framer = .idle → ArgumentsLegal s s.params.maxReadCount →
    ∀ p ∈ [(Instr.rtuRdHold, (0x03 : Byte)), (Instr.rtuRdInput, (0x04 : Byte))], ∃ t, exec p.1 s = .next t ∧
      t = { s with
        cres    := .ok
        res     := .pending
        framer  := .txWrite
        lat     := ⟨.read, p.2, s.slave, s.addr, s.count, s.xbase, s.timeout⟩
        txbuf   := t.txbuf
        txlen   := 8
        explen  := BitVec.ofNat 9 (5 + 2 * s.count.toNat)
        rxlen   := 0
        elapsed := 0
        dir     := (if s.params.hasRxen then 2 else 0) + (if s.params.hasTxen then 1 else 0) } ∧
      (let body := [s.slave, p.2, highByte s.addr, lowByte s.addr, 0x00, s.count]
       offeredFrame t = some (body ++ [lowByte (crc16 body), highByte (crc16 body)])) ∧
      (∀ k, 8 ≤ k → Memory.read t.txbuf k = Memory.read s.txbuf k)

/-- R99: a write command with legal arguments in IDLE latches its operands, builds the request of
9 + 2*COUNT bytes with the data words of its WBUF window, high byte first, and offers it. -/
def Obligations.WriteRequestAccepted : Prop :=
  ∀ s : State, s.params.wf → s.framer = .idle → ArgumentsLegal s s.params.maxWriteCount →
    ∃ t, exec .rtuWrMulti s = .next t ∧
      t = { s with
        cres    := .ok
        res     := .pending
        framer  := .txWrite
        lat     := ⟨.write, 0x10, s.slave, s.addr, s.count, s.xbase, s.timeout⟩
        txbuf   := t.txbuf
        txlen   := BitVec.ofNat 9 (9 + 2 * s.count.toNat)
        explen  := 8
        rxlen   := 0
        elapsed := 0
        dir     := (if s.params.hasRxen then 2 else 0) + (if s.params.hasTxen then 1 else 0) } ∧
      (let body := [s.slave, 0x10, highByte s.addr, lowByte s.addr, 0x00, s.count, BitVec.ofNat 8 (2 * s.count.toNat)] ++
          (List.range s.count.toNat).flatMap (fun k =>
            [highByte (Memory.read s.wbuf (s.xbase.toNat + k)), lowByte (Memory.read s.wbuf (s.xbase.toNat + k))])
       offeredFrame t = some (body ++ [lowByte (crc16 body), highByte (crc16 body)])) ∧
      (∀ k, 9 + 2 * s.count.toNat ≤ k → Memory.read t.txbuf k = Memory.read s.txbuf k)

/-! ### The transaction's steps (spec/44_rtu.md sections 4 and 5, spec/10_state.md rule R52) -/

/-- In TX_WRITE the serial port's answer n = TXLEN goes to TX_WAIT, a smaller one releases DIR and ends the
transaction with ERR_WRITE_COUNT; transmit-complete in TX_WAIT releases DIR and goes to RX; in any other state neither
has an effect (for the answer that is the model's deduction from R240, where R242 calls the step not enabled: log 12). -/
def Obligations.SerialTransmitSteps : Prop :=
  ∀ (s : State) (n : Nat),
    (s.framer = .txWrite → n = s.txlen.toNat → runEvent (.serAccept n) s = .next { s with framer := .txWait }) ∧
    (s.framer = .txWrite → n < s.txlen.toNat →
      runEvent (.serAccept n) s = .next { s with framer := .idle, dir := 0, res := .errWriteCount }) ∧
    (s.framer ≠ .txWrite → runEvent (.serAccept n) s = .next s) ∧
    (s.framer = .txWait → runEvent .serTxdone s = .next { s with framer := .rx, dir := 0 }) ∧
    (s.framer ≠ .txWait → runEvent .serTxdone s = .next s)

/-- R52: a tick while a transaction runs advances ELAPSED, saturating, and at the deadline releases DIR and ends the
transaction with ERR_TIMEOUT; a tick in IDLE has no effect. -/
def Obligations.TickStep : Prop :=
  ∀ s : State,
    (s.framer = .idle → runEvent .tick s = .next s) ∧
    (s.framer ≠ .idle → ∀ e : BitVec 16, e.toNat = min (s.elapsed.toNat + 1) 0xFFFF →
      runEvent .tick s = .next (
        if s.lat.timeout.toNat ≤ e.toNat then
          { s with elapsed := e, dir := 0, framer := .idle, res := .errTimeout }
        else { s with elapsed := e }))

/-- A received byte is dropped outside RX; in RX, before the expected length, it goes to RXBUF at RXLEN, RXLEN advances,
and every other byte of RXBUF and all else is as before. -/
def Obligations.ReceivedByteStored : Prop :=
  ∀ (s : State) (b : Byte),
    (s.framer ≠ .rx → runEvent (.serRxbyte b) s = .next s) ∧
    (s.framer = .rx → s.rxlen.toNat + 1 < s.explen.toNat → s.explen.toNat ≤ 256 →
      ∃ t, runEvent (.serRxbyte b) s = .next t ∧ t = { s with rxbuf := t.rxbuf, rxlen := s.rxlen + 1 } ∧
        ∀ k, Memory.read t.rxbuf k = responseWith s b k)

/-- R248: the byte that completes a read response ends the transaction with the validation's code, framing checks
before the CRC, and commits the data words to WBUF exactly when the code is OK. -/
def Obligations.ReadResponseValidated : Prop :=
  ∀ (s : State) (b : Byte), s.Inv → s.framer = .rx → s.lat.op = .read → s.rxlen.toNat + 1 = s.explen.toNat →
    let y := responseWith s b
    let N := s.lat.count.toNat
    let x := s.lat.xbase.toNat
    let code : ResCode :=
      if y 0 ≠ s.lat.slave ∨ y 1 ≠ s.lat.fc ∨ (y 2).toNat ≠ 2 * N then .errFrame
      else if (crc16 ((List.range (3 + 2 * N)).map y)).toNat ≠ (y (3 + 2 * N)).toNat + 256 * (y (4 + 2 * N)).toNat
        then .errCrc
      else .ok
    ∃ t, runEvent (.serRxbyte b) s = .next t ∧
      t = { s with framer := .idle, res := code, rxlen := s.rxlen + 1, rxbuf := t.rxbuf, wbuf := t.wbuf } ∧
      (∀ k, Memory.read t.rxbuf k = y k) ∧
      (∀ j, Memory.read t.wbuf j =
        if code = .ok ∧ x ≤ j ∧ j < x + N then
          BitVec.ofNat 16 ((y (3 + 2 * (j - x))).toNat * 256 + (y (4 + 2 * (j - x))).toNat)
        else Memory.read s.wbuf j)

/-- R249: the byte that completes a write response ends the transaction with the validation's code, the six echoed bytes
before the CRC; WBUF is not written. -/
def Obligations.WriteResponseValidated : Prop :=
  ∀ (s : State) (b : Byte), s.Inv → s.framer = .rx → s.lat.op = .write → s.rxlen.toNat + 1 = s.explen.toNat →
    let y := responseWith s b
    ∃ t, runEvent (.serRxbyte b) s = .next t ∧
      t = { s with
        framer := .idle
        res    :=
          if y 0 ≠ s.lat.slave ∨ y 1 ≠ 0x10 ∨ y 2 ≠ highByte s.lat.addr ∨ y 3 ≠ lowByte s.lat.addr ∨ y 4 ≠ 0x00 ∨
              y 5 ≠ s.lat.count then .errFrame
          else if (crc16 [y 0, y 1, y 2, y 3, y 4, y 5]).toNat ≠ (y 6).toNat + 256 * (y 7).toNat then .errCrc
          else .ok
        rxlen  := s.rxlen + 1
        rxbuf  := t.rxbuf } ∧
      (∀ k, Memory.read t.rxbuf k = y k)

/-- A correct read response, delivered byte by byte from the start of RX, ends the transaction with OK, and the data words
stand in the WBUF window, every other word being as before (the bytes come from the model's list of steps, log 1). -/
def Obligations.GoodReadResponseCommits : Prop :=
  ∀ (s : State) (ws : List RegWord) (rest : List Event), s.Inv → s.framer = .rx → s.lat.op = .read → s.rxlen = 0 →
    ws.length = s.lat.count.toNat →
    let body := [s.lat.slave, s.lat.fc, BitVec.ofNat 8 (2 * ws.length)] ++
      ws.flatMap (fun v => [highByte v, lowByte v])
    let frame := body ++ [lowByte (crc16 body), highByte (crc16 body)]
    s.inbox = frame.map .serRxbyte ++ rest →
    ∃ t, core.run frame.length s = .next t ∧
      t = { s with
        inbox := rest, framer := .idle, res := .ok, rxlen := s.explen, rxbuf := t.rxbuf, wbuf := t.wbuf } ∧
      Memory.readList t.rxbuf 0 frame.length = frame ∧
      (∀ j, Memory.read t.wbuf j =
        if h : s.lat.xbase.toNat ≤ j ∧ j - s.lat.xbase.toNat < ws.length then ws[j - s.lat.xbase.toNat]'h.2
        else Memory.read s.wbuf j)

/-! ### Whole-machine rules of the framer (spec/44_rtu.md section 6) -/

/-- A serial port that never answers: the transaction runs on under ticks alone and ends with ERR_TIMEOUT after exactly
the ticks left to LAT.timeout, DIR released (the ticks come from the model's list of steps, log 1). -/
def Obligations.SilenceEndsInTimeout : Prop :=
  ∀ (s : State) (n : Nat) (rest : List Event), s.Inv → s.framer ≠ .idle →
    s.inbox = List.replicate n .tick ++ rest → s.elapsed.toNat + n = s.lat.timeout.toNat →
    core.run n s = .next { s with
      inbox := rest, elapsed := s.lat.timeout, dir := 0, framer := .idle, res := .errTimeout } ∧
    (∀ k < n, ∃ u, core.run k s = .next u ∧ u.framer = s.framer ∧ u.elapsed.toNat = s.elapsed.toNat + k)

/-- No transaction outlives LAT.timeout ticks, whatever the host, the serial port and the ticks do in between: in a run
with as many ticks as are left, some point of the run is idle (the run takes the model's list of steps, log 1). -/
def Obligations.DeadlineBoundsTransaction : Prop :=
  ∀ (s t : State) (es rest : List Event), s.Inv → s.framer ≠ .idle → s.inbox = es ++ rest →
    s.lat.timeout.toNat ≤ s.elapsed.toNat + es.count .tick → core.run es.length s = .next t →
    ∃ k u, k ≤ es.length ∧ core.run k s = .next u ∧ u.framer = .idle

/-- R252: a transaction ends with OK only in a `ser_rxbyte` step with RXLEN = EXPLEN, at least 7 for a read and 8 for a
write; the tick that ends one gives ERR_TIMEOUT. -/
def Obligations.NoShortSuccess : Prop :=
  ∀ (e : Event) (s t : State), s.Inv → s.framer ≠ .idle → e ≠ .reset → runEvent e s = .next t → t.framer = .idle →
    (t.res = .ok → (∃ b, e = .serRxbyte b) ∧ s.framer = .rx ∧ t.rxlen = t.explen ∧
      (s.lat.op = .read → 7 ≤ t.explen.toNat) ∧ (s.lat.op = .write → t.explen.toNat = 8)) ∧
    (e = .tick → t.res = .errTimeout)

/-- A running transaction ends only by its own completion, its deadline, a write-count mismatch, or reset: there is no
abort. -/
def Obligations.TransactionEndsFourWays : Prop :=
  ∀ (e : Event) (s t : State), s.framer ≠ .idle → runEvent e s = .next t → t.framer = .idle →
    (∃ b, e = .serRxbyte b ∧ s.framer = .rx ∧ t.rxlen = t.explen) ∨
    (e = .tick ∧ s.lat.timeout.toNat ≤ t.elapsed.toNat ∧ t.res = .errTimeout) ∨
    (∃ n, e = .serAccept n ∧ s.framer = .txWrite ∧ n < s.txlen.toNat ∧ t.res = .errWriteCount) ∨
    e = .reset

/-- R251: every step that leaves the transmit states, which is transmit-complete, a write-count mismatch, a tick or reset,
leaves DIR at 0b00; DIR is 0b00 in RX and IDLE; an argument error asserts nothing. -/
def Obligations.DirectionReleasedOnExit : Prop :=
  ∀ (e : Event) (s t : State), s.Inv → runEvent e s = .next t →
    (Transmitting s → ¬ Transmitting t →
      t.dir = 0 ∧ (e = .serTxdone ∨ (∃ n, e = .serAccept n ∧ n ≠ s.txlen.toNat) ∨ e = .tick ∨ e = .reset)) ∧
    (t.framer = .rx ∨ t.framer = .idle → t.dir = 0) ∧
    (t.res = .errArg → t.dir = 0)

/-- A transaction writes WBUF only when a read completes with OK: no serial event and no tick changes it otherwise. -/
def Obligations.FailedTransactionKeepsWbuf : Prop :=
  ∀ (e : Event) (s t : State), (∀ a n v, e ≠ .hostWrite a n v) → e ≠ .reset → runEvent e s = .next t →
    t.wbuf ≠ s.wbuf → (∃ b, e = .serRxbyte b) ∧ s.framer = .rx ∧ s.lat.op = .read ∧ t.framer = .idle ∧ t.res = .ok

/-- The latches, the request frame and its lengths change only when an RTU command is accepted from IDLE, or at reset: no
host write reaches a running transaction. -/
def Obligations.LatchesIsolateTransaction : Prop :=
  ∀ (e : Event) (s t : State), runEvent e s = .next t →
    t.lat ≠ s.lat ∨ t.txbuf ≠ s.txbuf ∨ t.txlen ≠ s.txlen ∨ t.explen ≠ s.explen →
    e = .reset ∨ (s.framer = .idle ∧ t.framer = .txWrite ∧
      ∃ w, e = .hostWrite 0x004 4 w ∧ ∃ i ∈ rtuCommands, decode w = .ok i)

/-- The framer neither reads nor changes the host's CRC register, in any RTU command, serial event or tick. -/
def Obligations.FramerIgnoresHostCrc : Prop :=
  (∀ i ∈ rtuCommands, ∀ (s t : State) (c : BitVec 16), exec i s = .next t →
    t.crc = s.crc ∧ exec i { s with crc := c } = .next { t with crc := c }) ∧
  (∀ (e : Event) (s t : State) (c : BitVec 16),
    (∀ a n v, e ≠ .hostWrite a n v) → (∀ a n, e ≠ .hostRead a n) → e ≠ .reset → runEvent e s = .next t →
    t.crc = s.crc ∧ runEvent e { s with crc := c } = .next { t with crc := c })

/-! ### The host port (spec/10_state.md, spec/20_memory.md) -/

/-- A host write to a RW register, or to a word of WBUF, is read back masked to its implemented bits, and every other
register, buffer cell and hidden latch is as before. Offset by offset, the write stores the implemented bits in the
register of that offset, the one the commands use, and changes nothing else; at 0x100 + 4k that is word k of WBUF. -/
def Obligations.HostWriteReadsBackMasked : Prop :=
  (∀ (p : Nat × Word), (p ∈ rwRegisters ∨ ∃ k < 128, p = (0x100 + 4 * k, 0xFFFF)) → ∀ (v : Word) (s : State),
    ∃ t, runEvent (.hostWrite p.1 4 v) s = .next t ∧ hostLoad p.1 t = v &&& p.2 ∧
      (∀ a, a % 4 = 0 → a ≠ p.1 → hostLoad a t = hostLoad a s) ∧
      t.lat = s.lat ∧ t.framer = s.framer ∧ t.params = s.params ∧ t.inbox = s.inbox) ∧
  ∀ (v : Word) (s : State),
    runEvent (.hostWrite 0x00C 4 v) s = .next { s with slave := v.setWidth 8 } ∧
    runEvent (.hostWrite 0x010 4 v) s = .next { s with addr := v.setWidth 16 } ∧
    runEvent (.hostWrite 0x014 4 v) s = .next { s with count := v.setWidth 8 } ∧
    runEvent (.hostWrite 0x018 4 v) s = .next { s with xbase := v.setWidth 7 } ∧
    runEvent (.hostWrite 0x01C 4 v) s = .next { s with timeout := v.setWidth 16 } ∧
    runEvent (.hostWrite 0x034 4 v) s = .next { s with crc := v.setWidth 16 } ∧
    runEvent (.hostWrite 0x038 4 v) s = .next { s with fldBase := v.setWidth 7 } ∧
    runEvent (.hostWrite 0x03C 4 v) s = .next { s with fldWcnt := v.setWidth 8 } ∧
    runEvent (.hostWrite 0x040 4 v) s = .next { s with fldOff := v.setWidth 12 } ∧
    runEvent (.hostWrite 0x044 4 v) s = .next { s with fldLen := v.setWidth 6 } ∧
    runEvent (.hostWrite 0x048 4 v) s = .next { s with fldVal := v } ∧
    runEvent (.hostWrite 0x050 4 v) s = .next { s with fldDirty := v.getLsbD 0 } ∧
    runEvent (.hostWrite 0x054 4 v) s = .next { s with fldSel := v.setWidth 8 } ∧
    runEvent (.hostWrite 0x058 4 v) s = .next { s with fldIdx := v.setWidth 8 } ∧
    runEvent (.hostWrite 0x05C 4 v) s = .next { s with grpSel := v.setWidth 3 } ∧
    runEvent (.hostWrite 0x060 4 v) s = .next { s with grpUnit := v.setWidth 8 } ∧
    ∀ k < 128, ∃ t, runEvent (.hostWrite (0x100 + 4 * k) 4 v) s = .next t ∧ t = { s with wbuf := t.wbuf } ∧
      ∀ j, Memory.read t.wbuf j = if j = k then v.setWidth 16 else Memory.read s.wbuf j

/-- A host write to a read-only register, to TXBUF or RXBUF, or to a reserved offset changes no state, and a reserved
offset reads 0. -/
def Obligations.ReadOnlyAndReservedIgnoreWrites : Prop :=
  ∀ (a : Nat) (v : Word) (s : State), a % 4 = 0 →
    (a ∈ roRegisters ∨ (0x400 ≤ a ∧ a ≤ 0x7FC) ∨ (0x800 ≤ a ∧ a ≤ 0xBFC) ∨ ReservedOffset a →
      runEvent (.hostWrite a 4 v) s = .next s) ∧
    (ReservedOffset a → hostLoad a s = 0)

/-- A host read answers the word of its offset and has no other effect (the field that holds the answer is the model's,
log 3). Offset by offset, that word is the register or the buffer cell of the offset, with 0 in the unimplemented bits; ID
reads the constant and CMD reads 0 (STATUS is StatusWordLayout's, the reserved offsets ReadOnlyAndReservedIgnoreWrites'). -/
def Obligations.HostReadHasNoSideEffect : Prop :=
  (∀ (a : Nat) (s : State), a % 4 = 0 → a ≤ 0xFFC →
    runEvent (.hostRead a 4) s = .next { s with hostRdata := hostLoad a s }) ∧
  ∀ s : State,
    hostLoad 0x000 s = 0x44334E54 ∧ hostLoad 0x004 s = 0 ∧
    hostLoad 0x00C s = s.slave.setWidth 32 ∧ hostLoad 0x010 s = s.addr.setWidth 32 ∧
    hostLoad 0x014 s = s.count.setWidth 32 ∧ hostLoad 0x018 s = s.xbase.setWidth 32 ∧
    hostLoad 0x01C s = s.timeout.setWidth 32 ∧ hostLoad 0x020 s = s.elapsed.setWidth 32 ∧
    hostLoad 0x024 s = s.txlen.setWidth 32 ∧ hostLoad 0x028 s = s.rxlen.setWidth 32 ∧
    hostLoad 0x02C s = s.explen.setWidth 32 ∧ hostLoad 0x030 s = s.dir.setWidth 32 ∧
    hostLoad 0x034 s = s.crc.setWidth 32 ∧ hostLoad 0x038 s = s.fldBase.setWidth 32 ∧
    hostLoad 0x03C s = s.fldWcnt.setWidth 32 ∧ hostLoad 0x040 s = s.fldOff.setWidth 32 ∧
    hostLoad 0x044 s = s.fldLen.setWidth 32 ∧ hostLoad 0x048 s = s.fldVal ∧ hostLoad 0x04C s = s.fldRes ∧
    hostLoad 0x050 s = (if s.fldDirty = true then 1 else 0) ∧ hostLoad 0x054 s = s.fldSel.setWidth 32 ∧
    hostLoad 0x058 s = s.fldIdx.setWidth 32 ∧ hostLoad 0x05C s = s.grpSel.setWidth 32 ∧
    hostLoad 0x060 s = s.grpUnit.setWidth 32 ∧ hostLoad 0x064 s = (if s.grpKind = true then 1 else 0) ∧
    (∀ k < 128, hostLoad (0x100 + 4 * k) s = (Memory.read s.wbuf k).setWidth 32) ∧
    (∀ k < 256, hostLoad (0x400 + 4 * k) s = (Memory.read s.txbuf k).setWidth 32) ∧
    (∀ k < 256, hostLoad (0x800 + 4 * k) s = (Memory.read s.rxbuf k).setWidth 32)

/-- R23: the fields of STATUS; it reads 0 at reset, BUSY = 1 exactly when STATE is not 0, RES is PENDING while BUSY = 1 in
a legal state, and a host write to it has no effect. -/
def Obligations.StatusWordLayout : Prop :=
  hostLoad 0x008 State.reset = 0 ∧
  ∀ s : State,
    (∀ v, runEvent (.hostWrite 0x008 4 v) s = .next s) ∧
    ((hostLoad 0x008 s).getLsbD 0 = true ↔ (hostLoad 0x008 s).extractLsb' 4 3 ≠ 0) ∧
    (s.Inv → (hostLoad 0x008 s).getLsbD 0 = true → (hostLoad 0x008 s).extractLsb' 8 8 = 0x07) ∧
    (hostLoad 0x008 s).getLsbD 0 = decide (s.framer ≠ .idle) ∧
    (hostLoad 0x008 s).extractLsb' 1 3 = 0 ∧
    (hostLoad 0x008 s).extractLsb' 4 3 = (match s.framer with | .idle => 0 | .txWrite => 1 | .txWait => 2 | .rx => 3) ∧
    (hostLoad 0x008 s).getLsbD 7 = false ∧
    (hostLoad 0x008 s).extractLsb' 8 8 = (match s.res with
      | .ok => 0x00 | .errArg => 0x01 | .errWriteCount => 0x02 | .errTimeout => 0x03 | .errFrame => 0x04
      | .errCrc => 0x05 | .pending => 0x07) ∧
    (hostLoad 0x008 s).extractLsb' 16 8 = (match s.cres with
      | .ok => 0x00 | .errArg => 0x01 | .illegal => 0x06 | .busyRej => 0x08) ∧
    (hostLoad 0x008 s).extractLsb' 24 8 = 0

/-- R48: a direction pin exists exactly when its parameter says so; it has its active level when its DIR bit is 1 and its
inactive level when the bit is 0, whatever the open polarity is. -/
def Obligations.DirectionPins : Prop :=
  ∀ s : State,
    (s.params.hasTxen = false → txenPin s = none) ∧
    (s.params.hasTxen = true → s.dir.getLsbD 0 = true → txenPin s = some Config.txenActiveHigh) ∧
    (s.params.hasTxen = true → s.dir.getLsbD 0 = false → txenPin s = some (!Config.txenActiveHigh)) ∧
    (s.params.hasRxen = false → rxenPin s = none) ∧
    (s.params.hasRxen = true → s.dir.getLsbD 1 = true → rxenPin s = some Config.rxenActiveHigh) ∧
    (s.params.hasRxen = true → s.dir.getLsbD 1 = false → rxenPin s = some (!Config.rxenActiveHigh))

/-! ### Reset and the invariant (spec/70_reset_and_hazards.md) -/

/-- R310: what the reset step leaves, from any state: every register at its reset value, the buffers zero, the framer idle
with DIR released, the latches cleared; the parameters do not change. -/
def Obligations.ResetStepValues : Prop :=
  ∀ s : State, ∃ t, runEvent .reset s = .next t ∧
    (∀ a, a % 4 = 0 → hostLoad a t =
      if a = 0x000 then 0x44334E54 else if a = 0x01C then s.params.timeoutReset.setWidth 32
      else if a = 0x034 then 0x0000FFFF else 0) ∧
    t.framer = .idle ∧ t.res = .ok ∧ t.cres = .ok ∧ t.dir = 0 ∧ t.lat = ⟨.read, 0, 0, 0, 0, 0, 0⟩ ∧
    (∀ k, Memory.read t.wbuf k = 0 ∧ Memory.read t.txbuf k = 0 ∧ Memory.read t.rxbuf k = 0) ∧
    t.params = s.params

/-- The state after reset meets the invariant, with TIMEOUT at the default of TIMEOUT_RESET. -/
def Obligations.ResetStateLegal : Prop :=
  State.reset.Inv ∧ State.reset.timeout = 1000 ∧ State.reset.crc = 0xFFFF ∧ State.reset.params = Params.default

/-- Every step keeps the invariant: direction released outside the transmit states, RES PENDING exactly while BUSY, the
lengths bounded, the latched arguments legal and the deadline not passed while a transaction runs, the buffers in
canonical form, the parameters within their constraints. -/
def Obligations.StepKeepsInvariant : Prop :=
  ∀ s t : State, s.Inv → step s = .next t → t.Inv

/-- No step changes a parameter. -/
def Obligations.ParamsNeverChange : Prop :=
  ∀ s t : State, step s = .next t → t.params = s.params
end

