-- ==== Sys2Proof/Laws/Memory.lean ====
section
/-! SUPPORT. The laws of the buffers: a read after a write, and the canonical form kept by every operation. -/

namespace Sys2Proof.Machine.Memory

variable {w : Nat}

@[simp] theorem read_nil (i : Nat) : read ([] : Memory w) i = 0 := rfl

theorem read_cons (j : Nat) (v : BitVec w) (m : Memory w) (i : Nat) :
    read ((j, v) :: m) i = if j = i then v else read m i := rfl

theorem read_filter_same (m : Memory w) (i : Nat) : read (m.filter (fun c => c.1 != i)) i = 0 := by
  induction m with
  | nil => rfl
  | cons c m ih =>
    obtain ⟨j, v⟩ := c
    by_cases h : j = i
    · simp [h, ih]
    · simp [h, read_cons, ih]

theorem read_filter_other (m : Memory w) {i j : Nat} (h : j ≠ i) :
    read (m.filter (fun c => c.1 != i)) j = read m j := by
  induction m with
  | nil => rfl
  | cons c m ih =>
    obtain ⟨k, v⟩ := c
    by_cases hk : k = i
    · have : ¬ i = j := fun e => h e.symm
      simp [hk, ih, read_cons, this]
    · simp [hk, read_cons, ih]

theorem read_insert (i : Nat) (v : BitVec w) (m : Memory w) (hm : ∀ c ∈ m, c.1 ≠ i) (j : Nat) :
    read (insert i v m) j = if i = j then v else read m j := by
  induction m with
  | nil => rfl
  | cons c m ih =>
    obtain ⟨k, x⟩ := c
    have hk : k ≠ i := hm (k, x) (by simp)
    have ih' := ih (fun c hc => hm c (by simp [hc]))
    unfold insert
    split
    · simp [read_cons]
    · rw [read_cons, ih', read_cons]
      by_cases h1 : k = j <;> by_cases h2 : i = j <;> simp [h1, h2]
      · omega

/-- A cell written inside the buffer reads back as written. -/
@[simp] theorem read_write_same {size : Nat} (m : Memory w) {i : Nat} (v : BitVec w) (h : i < size) :
    read (write size m i v) i = v := by
  unfold write
  rw [if_pos h]
  split
  · rename_i hv; rw [read_filter_same, hv]
  · rw [read_insert _ _ _ (by simp)]; simp

/-- Every other cell reads as before. -/
theorem read_write_other {size : Nat} (m : Memory w) {i j : Nat} (v : BitVec w) (h : j ≠ i) :
    read (write size m i v) j = read m j := by
  unfold write
  split
  · split
    · exact read_filter_other m h
    · rw [read_insert _ _ _ (by simp), if_neg (fun e => h e.symm), read_filter_other m h]
  · rfl

theorem read_write {size : Nat} (m : Memory w) (i j : Nat) (v : BitVec w) :
    read (write size m i v) j = if j = i ∧ i < size then v else read m j := by
  by_cases h : j = i
  · subst h
    by_cases hs : j < size
    · simp [hs]
    · simp [write, hs]
  · simp [h, read_write_other m v h]

theorem mem_insert {i : Nat} {v : BitVec w} {m : Memory w} {c : Nat × BitVec w} (h : c ∈ insert i v m) :
    c = (i, v) ∨ c ∈ m := by
  induction m with
  | nil => simpa [insert] using h
  | cons d m ih =>
    obtain ⟨k, x⟩ := d
    unfold insert at h
    split at h
    · simpa using h
    · rcases List.mem_cons.1 h with h | h
      · simp [h]
      · rcases ih h with h | h <;> simp [h]

theorem insert_sorted {i : Nat} {v : BitVec w} {m : Memory w} (hs : m.Pairwise (fun a b => a.1 < b.1))
    (hm : ∀ c ∈ m, c.1 ≠ i) : (insert i v m).Pairwise (fun a b => a.1 < b.1) := by
  induction m with
  | nil => simp [insert]
  | cons d m ih =>
    obtain ⟨k, x⟩ := d
    obtain ⟨h1, h2⟩ := List.pairwise_cons.1 hs
    unfold insert
    split
    · rename_i hik
      refine List.pairwise_cons.2 ⟨fun c hc => ?_, hs⟩
      rcases List.mem_cons.1 hc with rfl | hc
      · exact hik
      · exact Nat.lt_trans hik (h1 c hc)
    · rename_i hik
      refine List.pairwise_cons.2 ⟨fun c hc => ?_, ih h2 (fun c hc => hm c (by simp [hc]))⟩
      rcases mem_insert hc with rfl | hc
      · have := hm (k, x) (by simp)
        show k < i
        have h' : ¬ i < k := hik
        have h'' : k ≠ i := this
        omega
      · exact h1 c hc

/-- Writing keeps the canonical form. -/
theorem write_wf {size : Nat} {m : Memory w} (h : wf size m) (i : Nat) (v : BitVec w) : wf size (write size m i v) := by
  obtain ⟨hs, hb⟩ := h
  have hf : (m.filter (fun c => c.1 != i)).Pairwise (fun a b => a.1 < b.1) := hs.filter _
  have hfb : ∀ c ∈ m.filter (fun c => c.1 != i), c.1 < size ∧ c.2 ≠ 0 := fun c hc => hb c (List.mem_filter.1 hc).1
  unfold write
  split
  · split
    · exact ⟨hf, hfb⟩
    · rename_i hi hv
      refine ⟨insert_sorted hf (by simp), fun c hc => ?_⟩
      rcases mem_insert hc with rfl | hc
      · exact ⟨hi, hv⟩
      · exact hfb c hc
  · exact ⟨hs, hb⟩

/-- Writing a run of cells keeps the canonical form. -/
theorem writeList_wf {size : Nat} {m : Memory w} (h : wf size m) (i : Nat) (vs : List (BitVec w)) :
    wf size (writeList size m i vs) := by
  induction vs generalizing m i with
  | nil => exact h
  | cons v vs ih => exact ih (write_wf h i v) (i + 1)

/-- A read after a run of cells is written inside the buffer. -/
theorem read_writeList {size : Nat} (m : Memory w) (i : Nat) (vs : List (BitVec w)) (h : i + vs.length ≤ size) (j : Nat) :
    read (writeList size m i vs) j = if hj : i ≤ j ∧ j < i + vs.length then vs[j - i]'(by omega) else read m j := by
  induction vs generalizing m i with
  | nil => simp only [writeList, List.length_nil]; rw [dif_neg (by omega)]
  | cons v vs ih =>
    simp only [List.length_cons] at h
    rw [writeList, ih _ _ (by omega)]
    by_cases h0 : j = i
    · subst h0
      rw [dif_neg (by omega), read_write_same _ _ (by omega), dif_pos ⟨le_refl _, by simp⟩]
      simp
    · by_cases h1 : i + 1 ≤ j ∧ j < i + 1 + vs.length
      · rw [dif_pos h1, dif_pos ⟨by omega, by simp; omega⟩]
        have : j - i = (j - (i + 1)) + 1 := by omega
        simp [this]
      · rw [dif_neg h1, read_write_other _ _ h0, dif_neg (by simp; omega)]

@[simp] theorem length_readList (m : Memory w) (i n : Nat) : (readList m i n).length = n := by
  induction n generalizing i with
  | zero => rfl
  | succ n ih => simp [readList, ih]

@[simp] theorem getElem_readList (m : Memory w) (i n k : Nat) (h : k < (readList m i n).length) :
    (readList m i n)[k] = read m (i + k) := by
  induction n generalizing i k with
  | zero => simp [readList] at h
  | succ n ih =>
    cases k with
    | zero => rfl
    | succ k =>
      have : k < (readList m (i + 1) n).length := by simpa using h
      simp only [readList, List.getElem_cons_succ, ih (i + 1) k this]
      congr 1
      omega

/-- The cells from 0 up, as a list over their indices. -/
theorem readList_zero (m : Memory w) (n : Nat) : readList m 0 n = (List.range n).map (read m) :=
  List.ext_getElem (by simp) fun k _ _ => by simp

/-- A run of cells written inside the buffer reads back as written. -/
theorem readList_writeList {size : Nat} (m : Memory w) (i : Nat) (vs : List (BitVec w)) (h : i + vs.length ≤ size) :
    readList (writeList size m i vs) i vs.length = vs := by
  refine List.ext_getElem (by simp) fun k h1 h2 => ?_
  rw [getElem_readList, read_writeList m i vs h, dif_pos ⟨by omega, by omega⟩]
  simp

end Sys2Proof.Machine.Memory
end

