-- ==== Sys2Proof/Laws/Operands.lean ====
section
/-! SUPPORT. What the bit and field primitives do, in terms of the bits of WBUF as a whole: `getb` and `getf` read them,
`setb` and `setf` change exactly the bits they address. -/

namespace Sys2Proof.Machine

theorem getb_eq_wbit (m : Memory 16) (base i : Nat) : getb m base i = wbit m (16 * base + i) := by
  unfold getb wbit
  rw [Nat.mul_add_div (by norm_num), Nat.mul_add_mod]

theorem getLsbD_wordWithBit (v : RegWord) {k : Nat} (x : Bool) (hk : k < 16) (j : Nat) :
    (wordWithBit v k x).getLsbD j = if j = k then x else v.getLsbD j := by
  unfold wordWithBit
  by_cases hj : j < 16
  · by_cases h : j = k
    · subst h
      cases x <;> simp [hj]
    · have h0 : ¬ (¬ j < k ∧ j - k = 0) := by omega
      cases x <;> by_cases hjk : j < k <;> simp [hj, h, hjk] <;> omega
  · have : j ≠ k := by omega
    rw [if_neg this, BitVec.getLsbD_of_ge _ _ (by omega), BitVec.getLsbD_of_ge _ _ (by omega)]

theorem wbit_setb (m : Memory 16) {base i : Nat} (x : Bool) (h : base + i / 16 < 128) (j : Nat) :
    wbit (setb m base i x) j = if j = 16 * base + i then x else wbit m j := by
  unfold setb writeWord wbit
  rw [Memory.read_write]
  by_cases hw : j / 16 = base + i / 16
  · rw [if_pos ⟨hw, h⟩, getLsbD_wordWithBit _ _ (by omega), hw]
    by_cases hj : j % 16 = i % 16
    · rw [if_pos hj, if_pos (by omega)]
    · rw [if_neg hj, if_neg (by omega)]
  · rw [if_neg (fun h => hw h.1), if_neg (by omega)]

/-- `setf` writes bit `k` of `u` to bit `k` of its field and leaves every other bit of WBUF as it was. -/
theorem wbit_setf (m : Memory 16) {base off : Nat} (u : Nat) {L : Nat} (h : 16 * base + off + L ≤ 2048) (j : Nat) :
    wbit (setf m base off u L) j =
      if 16 * base + off ≤ j ∧ j < 16 * base + off + L then u.testBit (j - (16 * base + off)) else wbit m j := by
  induction L with
  | zero => rw [setf, if_neg (by omega)]
  | succ k ih =>
    rw [setf, wbit_setb _ _ (by omega), ih (by omega)]
    by_cases hj : j = 16 * base + (off + k)
    · rw [if_pos hj, if_pos (by omega), hj]
      have : 16 * base + (off + k) - (16 * base + off) = k := by omega
      rw [this, Nat.testBit_eq_decide_div_mod_eq]
      simp [Bool.beq_eq_decide_eq]
    · rw [if_neg hj]
      by_cases hr : 16 * base + off ≤ j ∧ j < 16 * base + off + k
      · rw [if_pos hr, if_pos (by omega)]
      · rw [if_neg hr, if_neg (by omega)]

theorem setf_wf {m : Memory 16} (h : Memory.wf Config.wbufWords m) (base off u L : Nat) :
    Memory.wf Config.wbufWords (setf m base off u L) := by
  induction L with
  | zero => exact h
  | succ k ih => exact Memory.write_wf ih _ _

theorem getf_lt (m : Memory 16) (base off L : Nat) : getf m base off L < 2 ^ L := by
  induction L with
  | zero => simp [getf]
  | succ k ih =>
    rw [getf, Nat.pow_succ]
    have : (getb m base (off + k)).toNat * 2 ^ k ≤ 2 ^ k := by
      cases getb m base (off + k) <;> simp
    omega

/-- `getf` is the sum of 00_scope R13 over the bits of WBUF. -/
theorem getf_eq_fieldSum (m : Memory 16) (base off L : Nat) :
    getf m base off L = fieldSum m (16 * base + off) L := by
  induction L with
  | zero => rfl
  | succ k ih =>
    rw [getf, ih, fieldSum, fieldSum, Finset.sum_range_succ, getb_eq_wbit, Nat.add_assoc]

theorem testBit_getf (m : Memory 16) (base off L k : Nat) :
    (getf m base off L).testBit k = (decide (k < L) && wbit m (16 * base + off + k)) := by
  induction L with
  | zero => simp [getf]
  | succ n ih =>
    have hlt := getf_lt m base off n
    rw [getf, getb_eq_wbit, Nat.add_comm, Nat.mul_comm, ← Nat.add_assoc]
    rw [Nat.testBit_two_pow_mul_add _ hlt, ih]
    by_cases hk : k < n
    · simp [hk, Nat.lt_succ_of_lt hk]
    · rw [if_neg hk]
      by_cases he : k = n
      · subst he
        cases wbit m (16 * base + off + k) <;> simp
      · have h1 : ¬ k < n + 1 := by omega
        have h2 : 0 < k - n := by omega
        cases wbit m (16 * base + off + n)
        · simp [h1]
        · simp only [h1, decide_false, Bool.false_and, Bool.toNat_true]
          exact Nat.testBit_lt_two_pow (Nat.one_lt_two_pow (by omega))

/-- A field value is determined by its bits. -/
theorem getf_eq_of_bits {m : Memory 16} {base off L u : Nat} (hu : u < 2 ^ L)
    (h : ∀ k < L, wbit m (16 * base + off + k) = u.testBit k) : getf m base off L = u := by
  refine Nat.eq_of_testBit_eq fun k => ?_
  rw [testBit_getf]
  by_cases hk : k < L
  · simp [hk, h k hk]
  · have : u < 2 ^ k := lt_of_lt_of_le hu (Nat.pow_le_pow_right (by norm_num) (by omega))
    simp [hk, Nat.testBit_lt_two_pow this]

/-- A field written and read back holds the value written. -/
theorem getf_setf (m : Memory 16) {base off u L : Nat} (h : 16 * base + off + L ≤ 2048) (hu : u < 2 ^ L) :
    getf (setf m base off u L) base off L = u := by
  refine getf_eq_of_bits hu fun k hk => ?_
  rw [wbit_setf m u h, if_pos (by omega)]
  congr 1
  omega

/-- A field with none of its bits written reads as before. -/
theorem getf_setf_disjoint (m : Memory 16) {base off u L off' L' : Nat} (h : 16 * base + off + L ≤ 2048)
    (hd : off' + L' ≤ off ∨ off + L ≤ off') : getf (setf m base off u L) base off' L' = getf m base off' L' := by
  refine Nat.eq_of_testBit_eq fun k => ?_
  rw [testBit_getf, testBit_getf]
  by_cases hk : k < L'
  · rw [wbit_setf m u h, if_neg (by omega)]
  · simp [hk]

theorem inRange_iff (b n off L : Nat) : inRange b n off L = true ↔ b + n ≤ 128 ∧ 1 ≤ L ∧ off + L ≤ 16 * n := by
  simp [inRange, Config.wbufWords, and_assoc]

theorem unsignedLength_iff (L : Nat) : unsignedLength L = true ↔ 1 ≤ L ∧ L ≤ 32 := by
  simp only [unsignedLength, Bool.and_eq_true, decide_eq_true_eq]

theorem signedLength_iff (L : Nat) : signedLength L = true ↔ 2 ≤ L ∧ L ≤ 32 := by
  simp only [signedLength, Bool.and_eq_true, decide_eq_true_eq]

theorem codecInRange_iff (s : State) (L : Nat) : codecInRange s L = true ↔ CodecFits s L := inRange_iff _ _ _ _

theorem codecField_eq (s : State) (L : Nat) : codecField s L = fieldSum s.wbuf (codecStart s) L :=
  getf_eq_fieldSum _ _ _ _

/-- The rounding of 41_codec R145, by cases of the sign. -/
theorem rhaz10_eq_tenths (h : Int) : rhaz10 h = tenths h := by
  unfold rhaz10 tenths
  rcases lt_trichotomy h 0 with h0 | h0 | h0
  · rw [if_pos h0, Int.sign_eq_neg_one_of_neg h0]; omega
  · subst h0; simp
  · rw [if_neg (by omega), Int.sign_eq_one_of_pos h0]; omega

theorem smEncode_lt (v : Int) {L : Nat} (hL : 1 ≤ L) : smEncode v L < 2 ^ L := by
  unfold smEncode
  have h2 : v.natAbs % 2 ^ (L - 1) < 2 ^ (L - 1) := Nat.mod_lt _ (by positivity)
  have h3 : 2 ^ L = 2 ^ (L - 1) + 2 ^ (L - 1) := by
    conv_lhs => rw [← Nat.sub_add_cancel hL, Nat.pow_succ]
    omega
  split <;> omega

/-- Sign-magnitude decoding undoes encoding for a magnitude of L-1 bits. -/
theorem smDecode_smEncode {v : Int} {L : Nat} (hv : v.natAbs < 2 ^ (L - 1)) : smDecode (smEncode v L) L = v := by
  unfold smDecode smEncode
  have hp : 0 < 2 ^ (L - 1) := by positivity
  rw [Nat.mod_eq_of_lt hv]
  by_cases h : v < 0
  · have h1 : (2 ^ (L - 1) + v.natAbs) % 2 ^ (L - 1) = v.natAbs := by
      rw [Nat.add_mod_left, Nat.mod_eq_of_lt hv]
    have h2 : (2 ^ (L - 1) + v.natAbs) / 2 ^ (L - 1) = 1 := by
      rw [Nat.add_div_left _ hp, Nat.div_eq_of_lt hv]
    rw [if_pos h, h1, h2]
    show -((v.natAbs : Nat) : Int) = v
    omega
  · rw [if_neg h, Nat.zero_add, Nat.mod_eq_of_lt hv, Nat.div_eq_of_lt hv]
    simp
    omega

/-- The bits of an encoded value: the low bits its magnitude, the highest its sign (41_codec R140). -/
theorem testBit_smEncode (v : Int) {L : Nat} (hL : 1 ≤ L) {k : Nat} (hk : k < L) :
    (smEncode v L).testBit k = if k = L - 1 then decide (v < 0) else v.natAbs.testBit k := by
  unfold smEncode
  have h2 : v.natAbs % 2 ^ (L - 1) < 2 ^ (L - 1) := Nat.mod_lt _ (by positivity)
  by_cases hv : v < 0
  · rw [if_pos hv, show 2 ^ (L - 1) + v.natAbs % 2 ^ (L - 1) = 2 ^ (L - 1) * 1 + v.natAbs % 2 ^ (L - 1) by ring,
      Nat.testBit_two_pow_mul_add _ h2]
    by_cases hk1 : k = L - 1
    · subst hk1; simp [hv]
    · rw [if_pos (by omega), if_neg hk1, Nat.testBit_mod_two_pow]
      simp; omega
  · rw [if_neg hv, Nat.zero_add, Nat.testBit_mod_two_pow]
    by_cases hk1 : k = L - 1
    · simp [hk1, hv]
    · rw [if_neg hk1]; simp; omega

theorem smDecode_getf (m : Memory 16) (base off : Nat) {L : Nat} (hL : 2 ≤ L) :
    smDecode (getf m base off L) L = signedSum m (16 * base + off) L := by
  have hlt := getf_lt m base off (L - 1)
  have hs : getf m base off L =
      2 ^ (L - 1) * (wbit m (16 * base + off + (L - 1))).toNat + getf m base off (L - 1) := by
    conv_lhs => rw [show L = (L - 1) + 1 by omega, getf, getb_eq_wbit]
    rw [Nat.mul_comm, Nat.add_comm, ← Nat.add_assoc]
  unfold smDecode signedSum
  rw [hs, Nat.mul_add_mod, Nat.mod_eq_of_lt hlt, Nat.mul_add_div (by positivity), Nat.div_eq_of_lt hlt,
    getf_eq_fieldSum]
  cases wbit m (16 * base + off + (L - 1)) <;> simp

end Sys2Proof.Machine
end

