-- ==== Sys2Proof/Laws/Codec.lean ====
section
/-! SUPPORT. Everything the shared operations of the field codec can do, said once: a get, and a set in terms of the bits of
WBUF (spec/41_codec.md rules R131, R133, R134). -/

namespace Sys2Proof.Machine

/-- A get answers its result when the access is accepted and 0 otherwise, and changes nothing else but CRES. -/
theorem codecGet_eq {accepted : Bool} {fits : Prop} [Decidable fits] (v : Word) (s : State)
    (ha : accepted = true ↔ fits) :
    codecGet accepted v s = { s with cres := .ok, fldRes := if fits then v else 0 } := by
  unfold codecGet
  by_cases h : fits
  · rw [if_pos h, if_pos (ha.2 h)]; rfl
  · rw [if_neg h, if_neg (fun e => h (ha.1 e))]; rfl

/-- `setf` on the field at FLD_OFF of the codec window. -/
theorem wbit_setf_codec (s : State) (u : Nat) {L : Nat} (h : CodecFits s L) (i : Nat) :
    wbit (setf s.wbuf s.fldBase.toNat s.fldOff.toNat u L) i =
      if codecStart s ≤ i ∧ i < codecStart s + L then u.testBit (i - codecStart s) else wbit s.wbuf i :=
  wbit_setf s.wbuf u (by obtain ⟨h1, h2, h3⟩ := h; omega) i

/-- The effect of a set, for any description `bit` of the bits it stores and `changed` of when it is dirty. -/
theorem codecSet_effect {de accepted : Bool} {fits changed : Prop} {L bits : Nat} {req old : Int} {bit : Nat → Bool}
    {s : State} (ha : accepted = true ↔ fits) (hf : fits → CodecFits s L)
    (hb : fits → ∀ k < L, bits.testBit k = bit k) (hc : fits → (req ≠ old ↔ changed)) :
    CodecSetEffect de fits (codecStart s) L bit changed s (codecSet de accepted L bits req old s) := by
  unfold codecSet
  refine ⟨by split <;> rfl, fun h => ?_, fun h => ?_⟩
  · rw [if_pos (ha.2 h)]
    refine ⟨fun i => ?_, by simp [dirtyAfter, hc h]⟩
    rw [wbit_setf_codec s _ (hf h)]
    by_cases hi : codecStart s ≤ i ∧ i < codecStart s + L
    · rw [if_pos hi, if_pos hi]
      exact hb h _ (by omega)
    · rw [if_neg hi, if_neg hi]
  · rw [if_neg (fun e => h (ha.1 e))]
    exact ⟨rfl, rfl⟩

end Sys2Proof.Machine
end

