-- ==== Sys2Proof/Laws/Crc.lean ====
section
/-! SUPPORT. The CRC of a longer sequence in terms of the CRC of a shorter one (spec/43_crc.md rules R200, R201). -/

namespace Sys2Proof.Machine

@[simp] theorem crc16_nil : crc16 [] = 0xFFFF := rfl

/-- The CRC of a sequence followed by another goes on from the first one's CRC. -/
theorem crc16_append (xs ys : List Byte) : crc16 (xs ++ ys) = ys.foldl crcStep (crc16 xs) := by
  simp [crc16]

/-- One more byte is one more step. -/
theorem crc16_concat (xs : List Byte) (x : Byte) : crc16 (xs ++ [x]) = crcStep (crc16 xs) x := by
  simp [crc16]

/-- The shifts of a step, as an iteration of one shift. -/
theorem crcShift_eq_iterate (n : Nat) (c : BitVec 16) :
    crcShift n c = (fun c : BitVec 16 => if c.getLsbD 0 then (c >>> 1) ^^^ 0xA001#16 else c >>> 1)^[n] c := by
  induction n generalizing c with
  | zero => rfl
  | succ n ih => rw [Function.iterate_succ_apply, crcShift, ih]

end Sys2Proof.Machine
end

