-- ==== Sys2Proof/Laws/Encoding.lean ====
section
/-! SUPPORT. The fields of a command word and the word of its fields undo each other, and a decoded command has the fields
of its word (spec/30_encoding.md rules R90 to R92). -/

namespace Sys2Proof

/-- No field of a word is dropped or moved by building the word. -/
theorem fieldsOfWord_wordOfFields (f : CommandFields) : fieldsOfWord (wordOfFields f) = f := by
  obtain ⟨opc, de, rl, im, rh⟩ := f
  simp only [fieldsOfWord, wordOfFields]
  congr 1
  · ext i hi
    have : i < 9 := by omega
    have : i < 16 := by omega
    have : i < 24 := by omega
    have : i < 32 := by omega
    simp [*]
  · simp
  · ext i hi
    have h0 : opc.getLsbD (9 + i) = false := BitVec.getLsbD_of_ge _ _ (by omega)
    have : ¬ 9 + i < 8 := by omega
    have : 9 + i < 16 := by omega
    have : 9 + i < 24 := by omega
    have : 9 + i < 32 := by omega
    have : 9 + i - 8 = i + 1 := by omega
    simp [*]
  · ext i hi
    have h0 : opc.getLsbD (16 + i) = false := BitVec.getLsbD_of_ge _ _ (by omega)
    have : ¬ 16 + i < 8 := by omega
    have : ¬ 16 + i < 9 := by omega
    have : 16 + i < 24 := by omega
    have : 16 + i < 32 := by omega
    have : 16 + i - 8 = i + 8 := by omega
    have : 16 + i - 9 = i + 7 := by omega
    simp [*]
  · ext i hi
    have h0 : opc.getLsbD (24 + i) = false := BitVec.getLsbD_of_ge _ _ (by omega)
    have : ¬ 24 + i < 8 := by omega
    have : ¬ 24 + i < 9 := by omega
    have : ¬ 24 + i < 16 := by omega
    have : 24 + i < 32 := by omega
    have : 24 + i - 8 = i + 16 := by omega
    have : 24 + i - 9 = i + 15 := by omega
    have : 24 + i - 16 = i + 8 := by omega
    simp [*]

/-- A word is the word of its fields: they cover all 32 bits. -/
theorem wordOfFields_fieldsOfWord (w : Word) : wordOfFields (fieldsOfWord w) = w := by
  ext i hi
  simp only [fieldsOfWord, wordOfFields]
  by_cases h8 : i < 8
  · have : i < 9 := by omega
    have : i < 16 := by omega
    have : i < 24 := by omega
    simp [*]
  by_cases h9 : i < 9
  · have : i = 8 := by omega
    subst this
    simp
  have : i - 8 ≠ 0 := by omega
  have : 9 + (i - 9) = i := by omega
  by_cases h16 : i < 16
  · have : i - 9 < 7 := by omega
    have : i < 24 := by omega
    simp [*]
  have : ¬ i - 9 < 7 := by omega
  by_cases h24 : i < 24
  · have : 16 + (i - 16) = i := by omega
    have : i - 16 < 8 := by omega
    simp [*]
  · have : ¬ i - 16 < 8 := by omega
    have : 24 + (i - 24) = i := by omega
    have : i - 24 < 8 := by omega
    simp [*]

/-- A command read by the opcode map has the fields it was read from. -/
theorem fields_of_decodeOpcode {f : CommandFields} {i : Instr} (h : decodeOpcode f = .ok i) (hl : f.resLow = 0)
    (hh : f.resHigh = 0) : i.fields = f := by
  obtain ⟨opc, de, rl, im, rh⟩ := f
  simp only at hl hh
  subst hl hh
  unfold decodeOpcode at h
  split at h <;> rename_i ho <;> try simp only [decodePlain, decodeWithDirty, decodeWithImm] at h
  all_goals repeat' split at h
  all_goals cases h
  all_goals
    simp only at ho
    have hopc : opc = BitVec.ofNat 8 opc.toNat := by simp
    rw [ho] at hopc
    simp_all [Instr.fields, Instr.opcode, Instr.dirtyEnable, Instr.immediate]

/-- A decoded command has the fields of its word. -/
theorem fields_of_decode {w : Word} {i : Instr} (h : decode w = .ok i) : i.fields = fieldsOfWord w := by
  unfold decode at h
  simp only at h
  split at h
  · simp at h
  · rename_i hr
    exact fields_of_decodeOpcode h (by_contra fun e => hr (.inl e)) (by_contra fun e => hr (.inr e))

end Sys2Proof
end

