-- ==== Sys2Proof/Laws/PerInstr.lean ====
section
/-! SUPPORT. Statements made of every instruction, one lemma per constructor. -/

namespace Sys2Proof.Laws.EncodingReserved

/-- The bits of a command word that "must be 0", [15:9] and [31:24], are 0 in the instruction's word (30_encoding R90). -/
def Statement (i : Instr) : Prop := (encode i).extractLsb' 9 7 = 0 ∧ (encode i).extractLsb' 24 8 = 0

theorem reserved (i : Instr) : Statement i := by
  have h := fieldsOfWord_wordOfFields i.fields
  exact ⟨congrArg CommandFields.resLow h, congrArg CommandFields.resHigh h⟩

theorem nop : Statement (.nop) := reserved _
theorem crcInit : Statement (.crcInit) := reserved _
theorem crcByte (imm : Byte) : Statement (.crcByte imm) := reserved _
theorem getBit : Statement (.getBit) := reserved _
theorem setBit (de : Bool) : Statement (.setBit de) := reserved _
theorem getUns : Statement (.getUns) := reserved _
theorem setUns (de : Bool) : Statement (.setUns de) := reserved _
theorem getSgn : Statement (.getSgn) := reserved _
theorem setSgn (de : Bool) : Statement (.setSgn de) := reserved _
theorem getTemp : Statement (.getTemp) := reserved _
theorem setTemp (de : Bool) : Statement (.setTemp de) := reserved _
theorem viewGet : Statement (.viewGet) := reserved _
theorem viewSet (de : Bool) : Statement (.viewSet de) := reserved _
theorem grpSetup : Statement (.grpSetup) := reserved _
theorem rtuRdHold : Statement (.rtuRdHold) := reserved _
theorem rtuRdInput : Statement (.rtuRdInput) := reserved _
theorem rtuWrMulti : Statement (.rtuWrMulti) := reserved _

end Sys2Proof.Laws.EncodingReserved
end

