-- ==== Sys2Proof/Laws/State.lean ====
section
/-! SUPPORT. Reading a field after a named update of State: one lemma per field per update, each true by rfl, so that no
later proof unfolds a record update. -/

namespace Sys2Proof.Machine

/-! `commandOk` -/

@[simp] theorem commandOk_params (s : State) : (commandOk s).params = s.params := rfl
@[simp] theorem commandOk_inbox (s : State) : (commandOk s).inbox = s.inbox := rfl
@[simp] theorem commandOk_drawIx (s : State) : (commandOk s).drawIx = s.drawIx := rfl
@[simp] theorem commandOk_hostRdata (s : State) : (commandOk s).hostRdata = s.hostRdata := rfl
@[simp] theorem commandOk_framer (s : State) : (commandOk s).framer = s.framer := rfl
@[simp] theorem commandOk_res (s : State) : (commandOk s).res = s.res := rfl
@[simp] theorem commandOk_cres (s : State) : (commandOk s).cres = .ok := rfl
@[simp] theorem commandOk_slave (s : State) : (commandOk s).slave = s.slave := rfl
@[simp] theorem commandOk_addr (s : State) : (commandOk s).addr = s.addr := rfl
@[simp] theorem commandOk_count (s : State) : (commandOk s).count = s.count := rfl
@[simp] theorem commandOk_xbase (s : State) : (commandOk s).xbase = s.xbase := rfl
@[simp] theorem commandOk_timeout (s : State) : (commandOk s).timeout = s.timeout := rfl
@[simp] theorem commandOk_elapsed (s : State) : (commandOk s).elapsed = s.elapsed := rfl
@[simp] theorem commandOk_txlen (s : State) : (commandOk s).txlen = s.txlen := rfl
@[simp] theorem commandOk_rxlen (s : State) : (commandOk s).rxlen = s.rxlen := rfl
@[simp] theorem commandOk_explen (s : State) : (commandOk s).explen = s.explen := rfl
@[simp] theorem commandOk_dir (s : State) : (commandOk s).dir = s.dir := rfl
@[simp] theorem commandOk_crc (s : State) : (commandOk s).crc = s.crc := rfl
@[simp] theorem commandOk_fldBase (s : State) : (commandOk s).fldBase = s.fldBase := rfl
@[simp] theorem commandOk_fldWcnt (s : State) : (commandOk s).fldWcnt = s.fldWcnt := rfl
@[simp] theorem commandOk_fldOff (s : State) : (commandOk s).fldOff = s.fldOff := rfl
@[simp] theorem commandOk_fldLen (s : State) : (commandOk s).fldLen = s.fldLen := rfl
@[simp] theorem commandOk_fldVal (s : State) : (commandOk s).fldVal = s.fldVal := rfl
@[simp] theorem commandOk_fldRes (s : State) : (commandOk s).fldRes = s.fldRes := rfl
@[simp] theorem commandOk_fldDirty (s : State) : (commandOk s).fldDirty = s.fldDirty := rfl
@[simp] theorem commandOk_fldSel (s : State) : (commandOk s).fldSel = s.fldSel := rfl
@[simp] theorem commandOk_fldIdx (s : State) : (commandOk s).fldIdx = s.fldIdx := rfl
@[simp] theorem commandOk_grpSel (s : State) : (commandOk s).grpSel = s.grpSel := rfl
@[simp] theorem commandOk_grpUnit (s : State) : (commandOk s).grpUnit = s.grpUnit := rfl
@[simp] theorem commandOk_grpKind (s : State) : (commandOk s).grpKind = s.grpKind := rfl
@[simp] theorem commandOk_lat (s : State) : (commandOk s).lat = s.lat := rfl
@[simp] theorem commandOk_wbuf (s : State) : (commandOk s).wbuf = s.wbuf := rfl
@[simp] theorem commandOk_txbuf (s : State) : (commandOk s).txbuf = s.txbuf := rfl
@[simp] theorem commandOk_rxbuf (s : State) : (commandOk s).rxbuf = s.rxbuf := rfl

/-! `commandErrArg` -/

@[simp] theorem commandErrArg_params (s : State) : (commandErrArg s).params = s.params := rfl
@[simp] theorem commandErrArg_inbox (s : State) : (commandErrArg s).inbox = s.inbox := rfl
@[simp] theorem commandErrArg_drawIx (s : State) : (commandErrArg s).drawIx = s.drawIx := rfl
@[simp] theorem commandErrArg_hostRdata (s : State) : (commandErrArg s).hostRdata = s.hostRdata := rfl
@[simp] theorem commandErrArg_framer (s : State) : (commandErrArg s).framer = s.framer := rfl
@[simp] theorem commandErrArg_res (s : State) : (commandErrArg s).res = s.res := rfl
@[simp] theorem commandErrArg_cres (s : State) : (commandErrArg s).cres = .errArg := rfl
@[simp] theorem commandErrArg_slave (s : State) : (commandErrArg s).slave = s.slave := rfl
@[simp] theorem commandErrArg_addr (s : State) : (commandErrArg s).addr = s.addr := rfl
@[simp] theorem commandErrArg_count (s : State) : (commandErrArg s).count = s.count := rfl
@[simp] theorem commandErrArg_xbase (s : State) : (commandErrArg s).xbase = s.xbase := rfl
@[simp] theorem commandErrArg_timeout (s : State) : (commandErrArg s).timeout = s.timeout := rfl
@[simp] theorem commandErrArg_elapsed (s : State) : (commandErrArg s).elapsed = s.elapsed := rfl
@[simp] theorem commandErrArg_txlen (s : State) : (commandErrArg s).txlen = s.txlen := rfl
@[simp] theorem commandErrArg_rxlen (s : State) : (commandErrArg s).rxlen = s.rxlen := rfl
@[simp] theorem commandErrArg_explen (s : State) : (commandErrArg s).explen = s.explen := rfl
@[simp] theorem commandErrArg_dir (s : State) : (commandErrArg s).dir = s.dir := rfl
@[simp] theorem commandErrArg_crc (s : State) : (commandErrArg s).crc = s.crc := rfl
@[simp] theorem commandErrArg_fldBase (s : State) : (commandErrArg s).fldBase = s.fldBase := rfl
@[simp] theorem commandErrArg_fldWcnt (s : State) : (commandErrArg s).fldWcnt = s.fldWcnt := rfl
@[simp] theorem commandErrArg_fldOff (s : State) : (commandErrArg s).fldOff = s.fldOff := rfl
@[simp] theorem commandErrArg_fldLen (s : State) : (commandErrArg s).fldLen = s.fldLen := rfl
@[simp] theorem commandErrArg_fldVal (s : State) : (commandErrArg s).fldVal = s.fldVal := rfl
@[simp] theorem commandErrArg_fldRes (s : State) : (commandErrArg s).fldRes = s.fldRes := rfl
@[simp] theorem commandErrArg_fldDirty (s : State) : (commandErrArg s).fldDirty = s.fldDirty := rfl
@[simp] theorem commandErrArg_fldSel (s : State) : (commandErrArg s).fldSel = s.fldSel := rfl
@[simp] theorem commandErrArg_fldIdx (s : State) : (commandErrArg s).fldIdx = s.fldIdx := rfl
@[simp] theorem commandErrArg_grpSel (s : State) : (commandErrArg s).grpSel = s.grpSel := rfl
@[simp] theorem commandErrArg_grpUnit (s : State) : (commandErrArg s).grpUnit = s.grpUnit := rfl
@[simp] theorem commandErrArg_grpKind (s : State) : (commandErrArg s).grpKind = s.grpKind := rfl
@[simp] theorem commandErrArg_lat (s : State) : (commandErrArg s).lat = s.lat := rfl
@[simp] theorem commandErrArg_wbuf (s : State) : (commandErrArg s).wbuf = s.wbuf := rfl
@[simp] theorem commandErrArg_txbuf (s : State) : (commandErrArg s).txbuf = s.txbuf := rfl
@[simp] theorem commandErrArg_rxbuf (s : State) : (commandErrArg s).rxbuf = s.rxbuf := rfl

/-! `commandIllegal` -/

@[simp] theorem commandIllegal_params (s : State) : (commandIllegal s).params = s.params := rfl
@[simp] theorem commandIllegal_inbox (s : State) : (commandIllegal s).inbox = s.inbox := rfl
@[simp] theorem commandIllegal_drawIx (s : State) : (commandIllegal s).drawIx = s.drawIx := rfl
@[simp] theorem commandIllegal_hostRdata (s : State) : (commandIllegal s).hostRdata = s.hostRdata := rfl
@[simp] theorem commandIllegal_framer (s : State) : (commandIllegal s).framer = s.framer := rfl
@[simp] theorem commandIllegal_res (s : State) : (commandIllegal s).res = s.res := rfl
@[simp] theorem commandIllegal_cres (s : State) : (commandIllegal s).cres = .illegal := rfl
@[simp] theorem commandIllegal_slave (s : State) : (commandIllegal s).slave = s.slave := rfl
@[simp] theorem commandIllegal_addr (s : State) : (commandIllegal s).addr = s.addr := rfl
@[simp] theorem commandIllegal_count (s : State) : (commandIllegal s).count = s.count := rfl
@[simp] theorem commandIllegal_xbase (s : State) : (commandIllegal s).xbase = s.xbase := rfl
@[simp] theorem commandIllegal_timeout (s : State) : (commandIllegal s).timeout = s.timeout := rfl
@[simp] theorem commandIllegal_elapsed (s : State) : (commandIllegal s).elapsed = s.elapsed := rfl
@[simp] theorem commandIllegal_txlen (s : State) : (commandIllegal s).txlen = s.txlen := rfl
@[simp] theorem commandIllegal_rxlen (s : State) : (commandIllegal s).rxlen = s.rxlen := rfl
@[simp] theorem commandIllegal_explen (s : State) : (commandIllegal s).explen = s.explen := rfl
@[simp] theorem commandIllegal_dir (s : State) : (commandIllegal s).dir = s.dir := rfl
@[simp] theorem commandIllegal_crc (s : State) : (commandIllegal s).crc = s.crc := rfl
@[simp] theorem commandIllegal_fldBase (s : State) : (commandIllegal s).fldBase = s.fldBase := rfl
@[simp] theorem commandIllegal_fldWcnt (s : State) : (commandIllegal s).fldWcnt = s.fldWcnt := rfl
@[simp] theorem commandIllegal_fldOff (s : State) : (commandIllegal s).fldOff = s.fldOff := rfl
@[simp] theorem commandIllegal_fldLen (s : State) : (commandIllegal s).fldLen = s.fldLen := rfl
@[simp] theorem commandIllegal_fldVal (s : State) : (commandIllegal s).fldVal = s.fldVal := rfl
@[simp] theorem commandIllegal_fldRes (s : State) : (commandIllegal s).fldRes = s.fldRes := rfl
@[simp] theorem commandIllegal_fldDirty (s : State) : (commandIllegal s).fldDirty = s.fldDirty := rfl
@[simp] theorem commandIllegal_fldSel (s : State) : (commandIllegal s).fldSel = s.fldSel := rfl
@[simp] theorem commandIllegal_fldIdx (s : State) : (commandIllegal s).fldIdx = s.fldIdx := rfl
@[simp] theorem commandIllegal_grpSel (s : State) : (commandIllegal s).grpSel = s.grpSel := rfl
@[simp] theorem commandIllegal_grpUnit (s : State) : (commandIllegal s).grpUnit = s.grpUnit := rfl
@[simp] theorem commandIllegal_grpKind (s : State) : (commandIllegal s).grpKind = s.grpKind := rfl
@[simp] theorem commandIllegal_lat (s : State) : (commandIllegal s).lat = s.lat := rfl
@[simp] theorem commandIllegal_wbuf (s : State) : (commandIllegal s).wbuf = s.wbuf := rfl
@[simp] theorem commandIllegal_txbuf (s : State) : (commandIllegal s).txbuf = s.txbuf := rfl
@[simp] theorem commandIllegal_rxbuf (s : State) : (commandIllegal s).rxbuf = s.rxbuf := rfl

/-! `commandBusy` -/

@[simp] theorem commandBusy_params (s : State) : (commandBusy s).params = s.params := rfl
@[simp] theorem commandBusy_inbox (s : State) : (commandBusy s).inbox = s.inbox := rfl
@[simp] theorem commandBusy_drawIx (s : State) : (commandBusy s).drawIx = s.drawIx := rfl
@[simp] theorem commandBusy_hostRdata (s : State) : (commandBusy s).hostRdata = s.hostRdata := rfl
@[simp] theorem commandBusy_framer (s : State) : (commandBusy s).framer = s.framer := rfl
@[simp] theorem commandBusy_res (s : State) : (commandBusy s).res = s.res := rfl
@[simp] theorem commandBusy_cres (s : State) : (commandBusy s).cres = .busyRej := rfl
@[simp] theorem commandBusy_slave (s : State) : (commandBusy s).slave = s.slave := rfl
@[simp] theorem commandBusy_addr (s : State) : (commandBusy s).addr = s.addr := rfl
@[simp] theorem commandBusy_count (s : State) : (commandBusy s).count = s.count := rfl
@[simp] theorem commandBusy_xbase (s : State) : (commandBusy s).xbase = s.xbase := rfl
@[simp] theorem commandBusy_timeout (s : State) : (commandBusy s).timeout = s.timeout := rfl
@[simp] theorem commandBusy_elapsed (s : State) : (commandBusy s).elapsed = s.elapsed := rfl
@[simp] theorem commandBusy_txlen (s : State) : (commandBusy s).txlen = s.txlen := rfl
@[simp] theorem commandBusy_rxlen (s : State) : (commandBusy s).rxlen = s.rxlen := rfl
@[simp] theorem commandBusy_explen (s : State) : (commandBusy s).explen = s.explen := rfl
@[simp] theorem commandBusy_dir (s : State) : (commandBusy s).dir = s.dir := rfl
@[simp] theorem commandBusy_crc (s : State) : (commandBusy s).crc = s.crc := rfl
@[simp] theorem commandBusy_fldBase (s : State) : (commandBusy s).fldBase = s.fldBase := rfl
@[simp] theorem commandBusy_fldWcnt (s : State) : (commandBusy s).fldWcnt = s.fldWcnt := rfl
@[simp] theorem commandBusy_fldOff (s : State) : (commandBusy s).fldOff = s.fldOff := rfl
@[simp] theorem commandBusy_fldLen (s : State) : (commandBusy s).fldLen = s.fldLen := rfl
@[simp] theorem commandBusy_fldVal (s : State) : (commandBusy s).fldVal = s.fldVal := rfl
@[simp] theorem commandBusy_fldRes (s : State) : (commandBusy s).fldRes = s.fldRes := rfl
@[simp] theorem commandBusy_fldDirty (s : State) : (commandBusy s).fldDirty = s.fldDirty := rfl
@[simp] theorem commandBusy_fldSel (s : State) : (commandBusy s).fldSel = s.fldSel := rfl
@[simp] theorem commandBusy_fldIdx (s : State) : (commandBusy s).fldIdx = s.fldIdx := rfl
@[simp] theorem commandBusy_grpSel (s : State) : (commandBusy s).grpSel = s.grpSel := rfl
@[simp] theorem commandBusy_grpUnit (s : State) : (commandBusy s).grpUnit = s.grpUnit := rfl
@[simp] theorem commandBusy_grpKind (s : State) : (commandBusy s).grpKind = s.grpKind := rfl
@[simp] theorem commandBusy_lat (s : State) : (commandBusy s).lat = s.lat := rfl
@[simp] theorem commandBusy_wbuf (s : State) : (commandBusy s).wbuf = s.wbuf := rfl
@[simp] theorem commandBusy_txbuf (s : State) : (commandBusy s).txbuf = s.txbuf := rfl
@[simp] theorem commandBusy_rxbuf (s : State) : (commandBusy s).rxbuf = s.rxbuf := rfl

/-! `releaseDir` -/

@[simp] theorem releaseDir_params (s : State) : (releaseDir s).params = s.params := rfl
@[simp] theorem releaseDir_inbox (s : State) : (releaseDir s).inbox = s.inbox := rfl
@[simp] theorem releaseDir_drawIx (s : State) : (releaseDir s).drawIx = s.drawIx := rfl
@[simp] theorem releaseDir_hostRdata (s : State) : (releaseDir s).hostRdata = s.hostRdata := rfl
@[simp] theorem releaseDir_framer (s : State) : (releaseDir s).framer = s.framer := rfl
@[simp] theorem releaseDir_res (s : State) : (releaseDir s).res = s.res := rfl
@[simp] theorem releaseDir_cres (s : State) : (releaseDir s).cres = s.cres := rfl
@[simp] theorem releaseDir_slave (s : State) : (releaseDir s).slave = s.slave := rfl
@[simp] theorem releaseDir_addr (s : State) : (releaseDir s).addr = s.addr := rfl
@[simp] theorem releaseDir_count (s : State) : (releaseDir s).count = s.count := rfl
@[simp] theorem releaseDir_xbase (s : State) : (releaseDir s).xbase = s.xbase := rfl
@[simp] theorem releaseDir_timeout (s : State) : (releaseDir s).timeout = s.timeout := rfl
@[simp] theorem releaseDir_elapsed (s : State) : (releaseDir s).elapsed = s.elapsed := rfl
@[simp] theorem releaseDir_txlen (s : State) : (releaseDir s).txlen = s.txlen := rfl
@[simp] theorem releaseDir_rxlen (s : State) : (releaseDir s).rxlen = s.rxlen := rfl
@[simp] theorem releaseDir_explen (s : State) : (releaseDir s).explen = s.explen := rfl
@[simp] theorem releaseDir_dir (s : State) : (releaseDir s).dir = 0 := rfl
@[simp] theorem releaseDir_crc (s : State) : (releaseDir s).crc = s.crc := rfl
@[simp] theorem releaseDir_fldBase (s : State) : (releaseDir s).fldBase = s.fldBase := rfl
@[simp] theorem releaseDir_fldWcnt (s : State) : (releaseDir s).fldWcnt = s.fldWcnt := rfl
@[simp] theorem releaseDir_fldOff (s : State) : (releaseDir s).fldOff = s.fldOff := rfl
@[simp] theorem releaseDir_fldLen (s : State) : (releaseDir s).fldLen = s.fldLen := rfl
@[simp] theorem releaseDir_fldVal (s : State) : (releaseDir s).fldVal = s.fldVal := rfl
@[simp] theorem releaseDir_fldRes (s : State) : (releaseDir s).fldRes = s.fldRes := rfl
@[simp] theorem releaseDir_fldDirty (s : State) : (releaseDir s).fldDirty = s.fldDirty := rfl
@[simp] theorem releaseDir_fldSel (s : State) : (releaseDir s).fldSel = s.fldSel := rfl
@[simp] theorem releaseDir_fldIdx (s : State) : (releaseDir s).fldIdx = s.fldIdx := rfl
@[simp] theorem releaseDir_grpSel (s : State) : (releaseDir s).grpSel = s.grpSel := rfl
@[simp] theorem releaseDir_grpUnit (s : State) : (releaseDir s).grpUnit = s.grpUnit := rfl
@[simp] theorem releaseDir_grpKind (s : State) : (releaseDir s).grpKind = s.grpKind := rfl
@[simp] theorem releaseDir_lat (s : State) : (releaseDir s).lat = s.lat := rfl
@[simp] theorem releaseDir_wbuf (s : State) : (releaseDir s).wbuf = s.wbuf := rfl
@[simp] theorem releaseDir_txbuf (s : State) : (releaseDir s).txbuf = s.txbuf := rfl
@[simp] theorem releaseDir_rxbuf (s : State) : (releaseDir s).rxbuf = s.rxbuf := rfl

/-! `endTransaction` -/

@[simp] theorem endTransaction_params (s : State) (c : ResCode) : (endTransaction c s).params = s.params := rfl
@[simp] theorem endTransaction_inbox (s : State) (c : ResCode) : (endTransaction c s).inbox = s.inbox := rfl
@[simp] theorem endTransaction_drawIx (s : State) (c : ResCode) : (endTransaction c s).drawIx = s.drawIx := rfl
@[simp] theorem endTransaction_hostRdata (s : State) (c : ResCode) : (endTransaction c s).hostRdata = s.hostRdata := rfl
@[simp] theorem endTransaction_framer (s : State) (c : ResCode) : (endTransaction c s).framer = .idle := rfl
@[simp] theorem endTransaction_res (s : State) (c : ResCode) : (endTransaction c s).res = c := rfl
@[simp] theorem endTransaction_cres (s : State) (c : ResCode) : (endTransaction c s).cres = s.cres := rfl
@[simp] theorem endTransaction_slave (s : State) (c : ResCode) : (endTransaction c s).slave = s.slave := rfl
@[simp] theorem endTransaction_addr (s : State) (c : ResCode) : (endTransaction c s).addr = s.addr := rfl
@[simp] theorem endTransaction_count (s : State) (c : ResCode) : (endTransaction c s).count = s.count := rfl
@[simp] theorem endTransaction_xbase (s : State) (c : ResCode) : (endTransaction c s).xbase = s.xbase := rfl
@[simp] theorem endTransaction_timeout (s : State) (c : ResCode) : (endTransaction c s).timeout = s.timeout := rfl
@[simp] theorem endTransaction_elapsed (s : State) (c : ResCode) : (endTransaction c s).elapsed = s.elapsed := rfl
@[simp] theorem endTransaction_txlen (s : State) (c : ResCode) : (endTransaction c s).txlen = s.txlen := rfl
@[simp] theorem endTransaction_rxlen (s : State) (c : ResCode) : (endTransaction c s).rxlen = s.rxlen := rfl
@[simp] theorem endTransaction_explen (s : State) (c : ResCode) : (endTransaction c s).explen = s.explen := rfl
@[simp] theorem endTransaction_dir (s : State) (c : ResCode) : (endTransaction c s).dir = s.dir := rfl
@[simp] theorem endTransaction_crc (s : State) (c : ResCode) : (endTransaction c s).crc = s.crc := rfl
@[simp] theorem endTransaction_fldBase (s : State) (c : ResCode) : (endTransaction c s).fldBase = s.fldBase := rfl
@[simp] theorem endTransaction_fldWcnt (s : State) (c : ResCode) : (endTransaction c s).fldWcnt = s.fldWcnt := rfl
@[simp] theorem endTransaction_fldOff (s : State) (c : ResCode) : (endTransaction c s).fldOff = s.fldOff := rfl
@[simp] theorem endTransaction_fldLen (s : State) (c : ResCode) : (endTransaction c s).fldLen = s.fldLen := rfl
@[simp] theorem endTransaction_fldVal (s : State) (c : ResCode) : (endTransaction c s).fldVal = s.fldVal := rfl
@[simp] theorem endTransaction_fldRes (s : State) (c : ResCode) : (endTransaction c s).fldRes = s.fldRes := rfl
@[simp] theorem endTransaction_fldDirty (s : State) (c : ResCode) : (endTransaction c s).fldDirty = s.fldDirty := rfl
@[simp] theorem endTransaction_fldSel (s : State) (c : ResCode) : (endTransaction c s).fldSel = s.fldSel := rfl
@[simp] theorem endTransaction_fldIdx (s : State) (c : ResCode) : (endTransaction c s).fldIdx = s.fldIdx := rfl
@[simp] theorem endTransaction_grpSel (s : State) (c : ResCode) : (endTransaction c s).grpSel = s.grpSel := rfl
@[simp] theorem endTransaction_grpUnit (s : State) (c : ResCode) : (endTransaction c s).grpUnit = s.grpUnit := rfl
@[simp] theorem endTransaction_grpKind (s : State) (c : ResCode) : (endTransaction c s).grpKind = s.grpKind := rfl
@[simp] theorem endTransaction_lat (s : State) (c : ResCode) : (endTransaction c s).lat = s.lat := rfl
@[simp] theorem endTransaction_wbuf (s : State) (c : ResCode) : (endTransaction c s).wbuf = s.wbuf := rfl
@[simp] theorem endTransaction_txbuf (s : State) (c : ResCode) : (endTransaction c s).txbuf = s.txbuf := rfl
@[simp] theorem endTransaction_rxbuf (s : State) (c : ResCode) : (endTransaction c s).rxbuf = s.rxbuf := rfl

/-! `storeRxByte` -/

@[simp] theorem storeRxByte_params (s : State) (b : Byte) : (storeRxByte b s).params = s.params := rfl
@[simp] theorem storeRxByte_inbox (s : State) (b : Byte) : (storeRxByte b s).inbox = s.inbox := rfl
@[simp] theorem storeRxByte_drawIx (s : State) (b : Byte) : (storeRxByte b s).drawIx = s.drawIx := rfl
@[simp] theorem storeRxByte_hostRdata (s : State) (b : Byte) : (storeRxByte b s).hostRdata = s.hostRdata := rfl
@[simp] theorem storeRxByte_framer (s : State) (b : Byte) : (storeRxByte b s).framer = s.framer := rfl
@[simp] theorem storeRxByte_res (s : State) (b : Byte) : (storeRxByte b s).res = s.res := rfl
@[simp] theorem storeRxByte_cres (s : State) (b : Byte) : (storeRxByte b s).cres = s.cres := rfl
@[simp] theorem storeRxByte_slave (s : State) (b : Byte) : (storeRxByte b s).slave = s.slave := rfl
@[simp] theorem storeRxByte_addr (s : State) (b : Byte) : (storeRxByte b s).addr = s.addr := rfl
@[simp] theorem storeRxByte_count (s : State) (b : Byte) : (storeRxByte b s).count = s.count := rfl
@[simp] theorem storeRxByte_xbase (s : State) (b : Byte) : (storeRxByte b s).xbase = s.xbase := rfl
@[simp] theorem storeRxByte_timeout (s : State) (b : Byte) : (storeRxByte b s).timeout = s.timeout := rfl
@[simp] theorem storeRxByte_elapsed (s : State) (b : Byte) : (storeRxByte b s).elapsed = s.elapsed := rfl
@[simp] theorem storeRxByte_txlen (s : State) (b : Byte) : (storeRxByte b s).txlen = s.txlen := rfl
@[simp] theorem storeRxByte_rxlen (s : State) (b : Byte) : (storeRxByte b s).rxlen = s.rxlen + 1 := rfl
@[simp] theorem storeRxByte_explen (s : State) (b : Byte) : (storeRxByte b s).explen = s.explen := rfl
@[simp] theorem storeRxByte_dir (s : State) (b : Byte) : (storeRxByte b s).dir = s.dir := rfl
@[simp] theorem storeRxByte_crc (s : State) (b : Byte) : (storeRxByte b s).crc = s.crc := rfl
@[simp] theorem storeRxByte_fldBase (s : State) (b : Byte) : (storeRxByte b s).fldBase = s.fldBase := rfl
@[simp] theorem storeRxByte_fldWcnt (s : State) (b : Byte) : (storeRxByte b s).fldWcnt = s.fldWcnt := rfl
@[simp] theorem storeRxByte_fldOff (s : State) (b : Byte) : (storeRxByte b s).fldOff = s.fldOff := rfl
@[simp] theorem storeRxByte_fldLen (s : State) (b : Byte) : (storeRxByte b s).fldLen = s.fldLen := rfl
@[simp] theorem storeRxByte_fldVal (s : State) (b : Byte) : (storeRxByte b s).fldVal = s.fldVal := rfl
@[simp] theorem storeRxByte_fldRes (s : State) (b : Byte) : (storeRxByte b s).fldRes = s.fldRes := rfl
@[simp] theorem storeRxByte_fldDirty (s : State) (b : Byte) : (storeRxByte b s).fldDirty = s.fldDirty := rfl
@[simp] theorem storeRxByte_fldSel (s : State) (b : Byte) : (storeRxByte b s).fldSel = s.fldSel := rfl
@[simp] theorem storeRxByte_fldIdx (s : State) (b : Byte) : (storeRxByte b s).fldIdx = s.fldIdx := rfl
@[simp] theorem storeRxByte_grpSel (s : State) (b : Byte) : (storeRxByte b s).grpSel = s.grpSel := rfl
@[simp] theorem storeRxByte_grpUnit (s : State) (b : Byte) : (storeRxByte b s).grpUnit = s.grpUnit := rfl
@[simp] theorem storeRxByte_grpKind (s : State) (b : Byte) : (storeRxByte b s).grpKind = s.grpKind := rfl
@[simp] theorem storeRxByte_lat (s : State) (b : Byte) : (storeRxByte b s).lat = s.lat := rfl
@[simp] theorem storeRxByte_wbuf (s : State) (b : Byte) : (storeRxByte b s).wbuf = s.wbuf := rfl
@[simp] theorem storeRxByte_txbuf (s : State) (b : Byte) : (storeRxByte b s).txbuf = s.txbuf := rfl
@[simp] theorem storeRxByte_rxbuf (s : State) (b : Byte) : (storeRxByte b s).rxbuf = Memory.write Config.rtuBufBytes s.rxbuf s.rxlen.toNat b := rfl

/-! `commitRead` -/

@[simp] theorem commitRead_params (s : State) : (commitRead s).params = s.params := rfl
@[simp] theorem commitRead_inbox (s : State) : (commitRead s).inbox = s.inbox := rfl
@[simp] theorem commitRead_drawIx (s : State) : (commitRead s).drawIx = s.drawIx := rfl
@[simp] theorem commitRead_hostRdata (s : State) : (commitRead s).hostRdata = s.hostRdata := rfl
@[simp] theorem commitRead_framer (s : State) : (commitRead s).framer = s.framer := rfl
@[simp] theorem commitRead_res (s : State) : (commitRead s).res = s.res := rfl
@[simp] theorem commitRead_cres (s : State) : (commitRead s).cres = s.cres := rfl
@[simp] theorem commitRead_slave (s : State) : (commitRead s).slave = s.slave := rfl
@[simp] theorem commitRead_addr (s : State) : (commitRead s).addr = s.addr := rfl
@[simp] theorem commitRead_count (s : State) : (commitRead s).count = s.count := rfl
@[simp] theorem commitRead_xbase (s : State) : (commitRead s).xbase = s.xbase := rfl
@[simp] theorem commitRead_timeout (s : State) : (commitRead s).timeout = s.timeout := rfl
@[simp] theorem commitRead_elapsed (s : State) : (commitRead s).elapsed = s.elapsed := rfl
@[simp] theorem commitRead_txlen (s : State) : (commitRead s).txlen = s.txlen := rfl
@[simp] theorem commitRead_rxlen (s : State) : (commitRead s).rxlen = s.rxlen := rfl
@[simp] theorem commitRead_explen (s : State) : (commitRead s).explen = s.explen := rfl
@[simp] theorem commitRead_dir (s : State) : (commitRead s).dir = s.dir := rfl
@[simp] theorem commitRead_crc (s : State) : (commitRead s).crc = s.crc := rfl
@[simp] theorem commitRead_fldBase (s : State) : (commitRead s).fldBase = s.fldBase := rfl
@[simp] theorem commitRead_fldWcnt (s : State) : (commitRead s).fldWcnt = s.fldWcnt := rfl
@[simp] theorem commitRead_fldOff (s : State) : (commitRead s).fldOff = s.fldOff := rfl
@[simp] theorem commitRead_fldLen (s : State) : (commitRead s).fldLen = s.fldLen := rfl
@[simp] theorem commitRead_fldVal (s : State) : (commitRead s).fldVal = s.fldVal := rfl
@[simp] theorem commitRead_fldRes (s : State) : (commitRead s).fldRes = s.fldRes := rfl
@[simp] theorem commitRead_fldDirty (s : State) : (commitRead s).fldDirty = s.fldDirty := rfl
@[simp] theorem commitRead_fldSel (s : State) : (commitRead s).fldSel = s.fldSel := rfl
@[simp] theorem commitRead_fldIdx (s : State) : (commitRead s).fldIdx = s.fldIdx := rfl
@[simp] theorem commitRead_grpSel (s : State) : (commitRead s).grpSel = s.grpSel := rfl
@[simp] theorem commitRead_grpUnit (s : State) : (commitRead s).grpUnit = s.grpUnit := rfl
@[simp] theorem commitRead_grpKind (s : State) : (commitRead s).grpKind = s.grpKind := rfl
@[simp] theorem commitRead_lat (s : State) : (commitRead s).lat = s.lat := rfl
@[simp] theorem commitRead_wbuf (s : State) : (commitRead s).wbuf = Memory.writeList Config.wbufWords s.wbuf s.lat.xbase.toNat
      ((List.range s.lat.count.toNat).map (responseWord s)) := rfl
@[simp] theorem commitRead_txbuf (s : State) : (commitRead s).txbuf = s.txbuf := rfl
@[simp] theorem commitRead_rxbuf (s : State) : (commitRead s).rxbuf = s.rxbuf := rfl

end Sys2Proof.Machine
end

