-- ==== Sys2Proof/Laws/Rtu.lean ====
section
/-! SUPPORT. What the operations of the RTU framer can do, one lemma each (spec/44_rtu.md). -/

namespace Sys2Proof.Machine

theorem busy_iff (s : State) : busy s = true ↔ s.framer ≠ .idle := by simp [busy]

theorem argOk_iff (op : RtuOp) (s : State) : argOk op s = true ↔ ArgumentsLegal s (maxCount s.params op) := by
  simp [argOk, ArgumentsLegal, and_assoc]

/-- An RTU command is rejected, ends in an argument error, or is accepted (40_control R122, 44_rtu R230, R231). -/
theorem rtuCommand_cases (op : RtuOp) (fc : BitVec 8) (s : State) :
    (s.framer ≠ .idle ∧ rtuCommand op fc s = { s with cres := .busyRej }) ∨
    (s.framer = .idle ∧ ¬ ArgumentsLegal s (maxCount s.params op) ∧
      rtuCommand op fc s = { s with cres := .ok, res := .errArg }) ∨
    (s.framer = .idle ∧ ArgumentsLegal s (maxCount s.params op) ∧
      rtuCommand op fc s = accept op fc { s with cres := .ok }) := by
  by_cases h : s.framer = .idle
  · have hb : busy s = false := by simp [busy, h]
    by_cases ha : ArgumentsLegal s (maxCount s.params op)
    · refine .inr (.inr ⟨h, ha, ?_⟩)
      simp only [rtuCommand, hb, (argOk_iff op s).2 ha, if_true, Bool.false_eq_true, if_false, commandOk]
    · refine .inr (.inl ⟨h, ha, ?_⟩)
      have : ¬ argOk op s = true := fun e => ha ((argOk_iff op s).1 e)
      simp only [rtuCommand, hb, Bool.false_eq_true, if_false, if_neg this, commandOk]
  · refine .inl ⟨h, ?_⟩
    simp only [rtuCommand, (busy_iff s).2 h, if_true, commandBusy]

@[simp] theorem length_withCrc (body : List Byte) : (withCrc body).length = body.length + 2 := by
  simp [withCrc]

theorem length_dataBytes (ws : List RegWord) : (dataBytes ws).length = 2 * ws.length := by
  induction ws with
  | nil => rfl
  | cons w ws ih =>
    have : dataBytes (w :: ws) = wordBytes w ++ dataBytes ws := rfl
    rw [this, List.length_append, ih, List.length_cons]
    simp only [wordBytes, List.length_cons, List.length_nil]
    omega

/-- The request's length: 8 bytes for a read, 9 + 2N for a write (30_encoding R97, R99). -/
theorem length_requestFrame (l : Latches) (m : Memory 16) :
    (requestFrame l m).length = match l.op with
      | .read => 8
      | .write => 9 + 2 * l.count.toNat := by
  cases h : l.op
  · simp [requestFrame, h, readRequest]
  · simp [requestFrame, h, writeRequest, length_dataBytes]; omega

/-- Acceptance builds a frame that fits in TXBUF, offers it, and keeps the bytes beyond it (44_rtu R231). -/
theorem accept_frame (op : RtuOp) (fc : BitVec 8) (s : State)
    (h : (requestFrame (loadLatches op fc s) s.wbuf).length ≤ 256) :
    offeredFrame (accept op fc s) = some (requestFrame (loadLatches op fc s) s.wbuf) ∧
    ∀ k, (requestFrame (loadLatches op fc s) s.wbuf).length ≤ k →
      Memory.read (accept op fc s).txbuf k = Memory.read s.txbuf k := by
  constructor
  · have hl : (BitVec.ofNat 9 (requestFrame (loadLatches op fc s) s.wbuf).length).toNat =
        (requestFrame (loadLatches op fc s) s.wbuf).length := by
      rw [BitVec.toNat_ofNat]; exact Nat.mod_eq_of_lt (by omega)
    simp only [offeredFrame, accept, if_true, hl]
    rw [Memory.readList_writeList _ _ _ (by simpa using h)]
  · intro k hk
    simp only [accept]
    rw [Memory.read_writeList _ _ _ (by simpa using h), dif_neg (by omega)]

/-- The verdict on a read response, as one chain of conditions on its bytes (44_rtu R248). -/
theorem validateRead_eq (s : State) (y : Nat → Byte) (hy : ∀ k, Memory.read s.rxbuf k = y k) :
    validateRead s =
      if y 0 ≠ s.lat.slave ∨ y 1 ≠ s.lat.fc ∨ (y 2).toNat ≠ 2 * s.lat.count.toNat then .errFrame
      else if (crc16 ((List.range (3 + 2 * s.lat.count.toNat)).map y)).toNat ≠
          (y (3 + 2 * s.lat.count.toNat)).toNat + 256 * (y (4 + 2 * s.lat.count.toNat)).toNat then .errCrc
      else .ok := by
  have e : Memory.read s.rxbuf = y := funext hy
  have hf : (!readFrameOk s) = true ↔ (y 0 ≠ s.lat.slave ∨ y 1 ≠ s.lat.fc ∨ (y 2).toNat ≠ 2 * s.lat.count.toNat) := by
    simp only [readFrameOk, rxByteAt, e, Bool.not_eq_true', Bool.and_eq_false_iff, beq_eq_false_iff_ne, or_assoc]
  have hc : (!crcMatches s (3 + 2 * s.lat.count.toNat)) = true ↔
      (crc16 ((List.range (3 + 2 * s.lat.count.toNat)).map y)).toNat ≠
        (y (3 + 2 * s.lat.count.toNat)).toNat + 256 * (y (4 + 2 * s.lat.count.toNat)).toNat := by
    generalize s.lat.count.toNat = n
    rw [crcMatches, Bool.not_eq_true', beq_eq_false_iff_ne, Memory.readList_zero, rxByteAt, rxByteAt, e,
      show 3 + 2 * n + 1 = 4 + 2 * n by omega]
  unfold validateRead
  exact ite_congr (propext hf) (fun _ => rfl) (fun _ => ite_congr (propext hc) (fun _ => rfl) (fun _ => rfl))

/-- The verdict on a write response, as one chain of conditions on its bytes (44_rtu R249). -/
theorem validateWrite_eq (s : State) (y : Nat → Byte) (hy : ∀ k, Memory.read s.rxbuf k = y k) :
    validateWrite s =
      if y 0 ≠ s.lat.slave ∨ y 1 ≠ 0x10 ∨ y 2 ≠ s.lat.addr.extractLsb' 8 8 ∨ y 3 ≠ s.lat.addr.extractLsb' 0 8 ∨
          y 4 ≠ 0x00 ∨ y 5 ≠ s.lat.count then .errFrame
      else if (crc16 [y 0, y 1, y 2, y 3, y 4, y 5]).toNat ≠ (y 6).toNat + 256 * (y 7).toNat then .errCrc
      else .ok := by
  have e : Memory.read s.rxbuf = y := funext hy
  have hf : (!writeFrameOk s) = true ↔ (y 0 ≠ s.lat.slave ∨ y 1 ≠ 0x10 ∨ y 2 ≠ s.lat.addr.extractLsb' 8 8 ∨
      y 3 ≠ s.lat.addr.extractLsb' 0 8 ∨ y 4 ≠ 0x00 ∨ y 5 ≠ s.lat.count) := by
    simp only [writeFrameOk, rxByteAt, e, Bool.not_eq_true', Bool.and_eq_false_iff, beq_eq_false_iff_ne, or_assoc]
  have hc : (!crcMatches s 6) = true ↔
      (crc16 [y 0, y 1, y 2, y 3, y 4, y 5]).toNat ≠ (y 6).toNat + 256 * (y 7).toNat := by
    have hl : Memory.readList s.rxbuf 0 6 = [y 0, y 1, y 2, y 3, y 4, y 5] := by
      rw [Memory.readList_zero, e]; rfl
    rw [crcMatches, Bool.not_eq_true', beq_eq_false_iff_ne, hl, rxByteAt, rxByteAt, e]
  unfold validateWrite
  exact ite_congr (propext hf) (fun _ => rfl) (fun _ => ite_congr (propext hc) (fun _ => rfl) (fun _ => rfl))

/-- The verdicts a validation can give (44_rtu R248, R249). -/
theorem validate_cases (s : State) : validate s = .ok ∨ validate s = .errFrame ∨ validate s = .errCrc := by
  unfold validate validateRead validateWrite
  split <;> (repeat' split) <;> simp

/-- Completing a response ends the transaction with the validation's code and writes WBUF only for a good read
(44_rtu R246, R250). -/
theorem completeResponse_cases (s : State) :
    (validate s = .ok ∧ s.lat.op = .read ∧
      completeResponse s = { commitRead s with framer := .idle, res := .ok }) ∨
    (¬ (validate s = .ok ∧ s.lat.op = .read) ∧
      completeResponse s = { s with framer := .idle, res := validate s }) := by
  by_cases h : validate s = .ok ∧ s.lat.op = .read
  · refine .inl ⟨h.1, h.2, ?_⟩
    simp only [completeResponse, h.1, h.2, and_self, if_true, endTransaction]
  · refine .inr ⟨h, ?_⟩
    simp only [completeResponse, if_neg h, endTransaction]

/-- A received byte is dropped, stored, or completes the response (44_rtu R246). -/
theorem rxByte_cases (b : Byte) (s : State) :
    (s.framer ≠ .rx ∧ rxByte b s = s) ∨
    (s.framer = .rx ∧ s.rxlen + 1 ≠ s.explen ∧ rxByte b s = storeRxByte b s) ∨
    (s.framer = .rx ∧ s.rxlen + 1 = s.explen ∧ rxByte b s = completeResponse (storeRxByte b s)) := by
  by_cases h : s.framer = .rx
  · by_cases he : s.rxlen + 1 = s.explen
    · exact .inr (.inr ⟨h, he, (if_pos h).trans (if_pos he)⟩)
    · exact .inr (.inl ⟨h, he, (if_pos h).trans (if_neg he)⟩)
  · exact .inl ⟨h, if_neg h⟩

theorem elapsedNext_toNat (e : BitVec 16) : (elapsedNext e).toNat = min (e.toNat + 1) 0xFFFF := by
  unfold elapsedNext
  split
  · rename_i h; subst h; rfl
  · rename_i h
    have h' : e.toNat ≠ 0xFFFF := fun hh => h (BitVec.eq_of_toNat_eq (by simpa using hh))
    have := e.isLt
    rw [BitVec.toNat_add, Nat.mod_eq_of_lt (by simp; omega)]
    simp; omega

/-- A tick does nothing in IDLE, counts, or ends the transaction at its deadline (10_state R52). -/
theorem tickStep_cases (s : State) :
    (s.framer = .idle ∧ tickStep s = s) ∨
    (s.framer ≠ .idle ∧ (elapsedNext s.elapsed).toNat < s.lat.timeout.toNat ∧
      tickStep s = { s with elapsed := elapsedNext s.elapsed }) ∨
    (s.framer ≠ .idle ∧ s.lat.timeout.toNat ≤ (elapsedNext s.elapsed).toNat ∧
      tickStep s = { s with elapsed := elapsedNext s.elapsed, dir := 0, framer := .idle, res := .errTimeout }) := by
  by_cases h : s.framer = .idle
  · exact .inl ⟨h, by simp [tickStep, busy, h]⟩
  · by_cases ht : s.lat.timeout.toNat ≤ (elapsedNext s.elapsed).toNat
    · refine .inr (.inr ⟨h, ht, ?_⟩)
      simp only [tickStep, (busy_iff s).2 h, if_true, if_pos ht, endTransaction, releaseDir]
    · refine .inr (.inl ⟨h, by omega, ?_⟩)
      simp only [tickStep, (busy_iff s).2 h, if_true, if_neg ht]

/-- The serial port's answer goes on to TX_WAIT or ends the transaction (44_rtu R242). -/
theorem acceptCount_cases (n : Nat) (s : State) :
    (n = s.txlen.toNat ∧ acceptCount n s = { s with framer := .txWait }) ∨
    (n ≠ s.txlen.toNat ∧ acceptCount n s = { s with framer := .idle, dir := 0, res := .errWriteCount }) := by
  by_cases h : n = s.txlen.toNat
  · exact .inl ⟨h, by simp [acceptCount, h]⟩
  · exact .inr ⟨h, by simp only [acceptCount, if_neg h, endTransaction, releaseDir]⟩

/-- Transmit-complete releases the direction and turns to reception, in TX_WAIT only (44_rtu R244). -/
theorem txDone_cases (s : State) :
    (s.framer = .txWait ∧ txDone s = { s with framer := .rx, dir := 0 }) ∨ (s.framer ≠ .txWait ∧ txDone s = s) := by
  by_cases h : s.framer = .txWait
  · exact .inl ⟨h, by simp only [txDone, if_pos h, releaseDir]⟩
  · exact .inr ⟨h, by simp only [txDone, if_neg h]⟩

/-- RXBUF after a stored byte (44_rtu R246). -/
theorem read_storeRxByte (b : Byte) (s : State) (h : s.rxlen.toNat < 256) (k : Nat) :
    Memory.read (storeRxByte b s).rxbuf k = responseWith s b k := by
  simp only [storeRxByte, responseWith, Memory.read_write]
  by_cases hk : k = s.rxlen.toNat
  · simp [hk, h]
  · simp [hk]

/-- WBUF after a commit: the data words in the transaction's window, every other word as before (44_rtu R250). -/
theorem read_commitRead (s : State) (h : s.lat.xbase.toNat + s.lat.count.toNat ≤ 128) (j : Nat) :
    Memory.read (commitRead s).wbuf j =
      if s.lat.xbase.toNat ≤ j ∧ j < s.lat.xbase.toNat + s.lat.count.toNat then
        responseWord s (j - s.lat.xbase.toNat)
      else Memory.read s.wbuf j := by
  simp only [commitRead]
  rw [Memory.read_writeList _ _ _ (by simpa using h)]
  simp only [List.length_map, List.length_range, List.getElem_map, List.getElem_range, dite_eq_ite]

theorem wordOfBytes_eq (hi lo : Byte) : wordOfBytes hi lo = BitVec.ofNat 16 (hi.toNat * 256 + lo.toNat) := by
  apply BitVec.eq_of_toNat_eq
  have h1 := hi.isLt
  have h2 := lo.isLt
  rw [wordOfBytes, BitVec.toNat_append, BitVec.toNat_ofNat, Nat.mod_eq_of_lt (by omega), 
    ← Nat.shiftLeft_add_eq_or_of_lt h2, Nat.shiftLeft_eq]

end Sys2Proof.Machine
end

