-- ==== Sys2Proof/Laws/Step.lean ====
section
/-! SUPPORT. What a command, a host write and one step of an agent can do, said once each: that they complete, which fields
they may change, and that WBUF keeps its canonical form. -/

namespace Sys2Proof.Machine

/-- Every command completes: no instruction ends in a fault or a refusal. -/
theorem exec_next (i : Instr) (s : State) : ∃ t, exec i s = .next t := by
  cases i <;> simp only [exec, execNop, execCrcInit, execCrcByte, execGetBit, execSetBit, execGetUns, execSetUns,
    execGetSgn, execSetSgn, execGetTemp, execSetTemp, execViewGet, execViewSet, execGrpSetup, execRtuRdHold,
    execRtuRdInput, execRtuWrMulti] <;> (repeat' split) <;> exact ⟨_, rfl⟩

/-- A CMD write completes, whatever the word. -/
theorem runCommand_next (w : Word) (s : State) : ∃ t, runCommand w s = .next t := by
  unfold runCommand
  split
  · exact exec_next _ _
  · exact ⟨_, rfl⟩

/-- A read-only codec access. -/
theorem codecGet_frame (accepted : Bool) (v : Word) (s : State) :
    codecGet accepted v s = { s with cres := .ok, fldRes := (codecGet accepted v s).fldRes } := rfl

theorem codecSet_frame (de accepted : Bool) (L bits : Nat) (req old : Int) (s : State) :
    codecSet de accepted L bits req old s =
      { s with
        cres     := .ok
        wbuf     := (codecSet de accepted L bits req old s).wbuf
        fldDirty := (codecSet de accepted L bits req old s).fldDirty } := by
  unfold codecSet; split <;> rfl

theorem codecSet_wf (de accepted : Bool) (L bits : Nat) (req old : Int) (s : State)
    (h : Memory.wf Config.wbufWords s.wbuf) : Memory.wf Config.wbufWords (codecSet de accepted L bits req old s).wbuf := by
  unfold codecSet
  split
  · exact setf_wf h _ _ _ _
  · exact h

theorem viewStore_wf (de : Bool) (d : FieldDesc) (s : State) (h : Memory.wf Config.wbufWords s.wbuf) :
    Memory.wf Config.wbufWords (viewStore de d s).wbuf := by
  simp only [viewStore]
  split
  · exact setf_wf (setf_wf h _ _ _ _) _ _ _ _
  · exact setf_wf h _ _ _ _

/-- A command other than the three RTU commands may change CRES, CRC, FLD_RES, FLD_DIRTY, WBUF, ADDR, COUNT and GRP_KIND,
and no other field; WBUF keeps its canonical form. -/
theorem exec_frame {i : Instr} {s t : State} (hi : i ∉ rtuCommands) (h : exec i s = .next t) :
    t = { s with
      cres := t.cres, crc := t.crc, fldRes := t.fldRes, fldDirty := t.fldDirty, wbuf := t.wbuf, addr := t.addr,
      count := t.count, grpKind := t.grpKind } ∧
    (Memory.wf Config.wbufWords s.wbuf → Memory.wf Config.wbufWords t.wbuf) := by
  cases i with
  | nop => cases h; exact ⟨rfl, id⟩
  | crcInit => cases h; exact ⟨rfl, id⟩
  | crcByte => cases h; exact ⟨rfl, id⟩
  | getBit => cases h; exact ⟨rfl, id⟩
  | getUns => cases h; exact ⟨rfl, id⟩
  | getSgn => cases h; exact ⟨rfl, id⟩
  | getTemp => cases h; exact ⟨rfl, id⟩
  | setBit => cases h; exact ⟨by rw [codecSet_frame], codecSet_wf _ _ _ _ _ _ _⟩
  | setUns => cases h; exact ⟨by rw [codecSet_frame], codecSet_wf _ _ _ _ _ _ _⟩
  | setSgn => cases h; exact ⟨by rw [codecSet_frame], codecSet_wf _ _ _ _ _ _ _⟩
  | setTemp => cases h; exact ⟨by rw [codecSet_frame], codecSet_wf _ _ _ _ _ _ _⟩
  | viewGet =>
    simp only [exec, execViewGet] at h
    split at h <;> cases h <;> exact ⟨rfl, id⟩
  | viewSet =>
    simp only [exec, execViewSet] at h
    split at h
    · cases h; exact ⟨rfl, id⟩
    · injection h with h
      split at h <;> subst h
      · exact ⟨rfl, viewStore_wf _ _ _⟩
      · exact ⟨rfl, id⟩
  | grpSetup =>
    simp only [exec, execGrpSetup] at h
    split at h
    · cases h; exact ⟨rfl, id⟩
    · split at h <;> cases h <;> exact ⟨rfl, id⟩
  | rtuRdHold => simp [rtuCommands] at hi
  | rtuRdInput => simp [rtuCommands] at hi
  | rtuWrMulti => simp [rtuCommands] at hi

/-- The three RTU commands are `rtuCommand` of their operation and function code (44_rtu R233 to R235). -/
theorem exec_rtu {i : Instr} {s t : State} (hi : i ∈ rtuCommands) (h : exec i s = .next t) :
    (i = .rtuRdHold ∧ t = rtuCommand .read 0x03 s) ∨ (i = .rtuRdInput ∧ t = rtuCommand .read 0x04 s) ∨
    (i = .rtuWrMulti ∧ t = rtuCommand .write 0x10 s) := by
  simp only [rtuCommands, List.mem_cons, List.not_mem_nil, or_false] at hi
  rcases hi with rfl | rfl | rfl <;> cases h <;> simp

/-- A host write of an offset other than CMD changes at most the RW registers and WBUF, which keeps its canonical form. -/
theorem hostStore_frame (a : Nat) (v : Word) (s : State) :
    hostStore a v s = { s with
      slave := (hostStore a v s).slave, addr := (hostStore a v s).addr, count := (hostStore a v s).count,
      xbase := (hostStore a v s).xbase, timeout := (hostStore a v s).timeout, crc := (hostStore a v s).crc,
      fldBase := (hostStore a v s).fldBase, fldWcnt := (hostStore a v s).fldWcnt, fldOff := (hostStore a v s).fldOff,
      fldLen := (hostStore a v s).fldLen, fldVal := (hostStore a v s).fldVal,
      fldDirty := (hostStore a v s).fldDirty, fldSel := (hostStore a v s).fldSel,
      fldIdx := (hostStore a v s).fldIdx, grpSel := (hostStore a v s).grpSel, grpUnit := (hostStore a v s).grpUnit,
      wbuf := (hostStore a v s).wbuf } ∧
    (Memory.wf Config.wbufWords s.wbuf → Memory.wf Config.wbufWords (hostStore a v s).wbuf) := by
  unfold hostStore
  split
  all_goals try exact ⟨rfl, id⟩
  unfold bufferStore
  split
  · exact ⟨rfl, fun h => Memory.write_wf h _ _⟩
  · exact ⟨rfl, id⟩

/-- Every way one step of an agent answers a next state (10_state R50). -/
theorem runEvent_cases {e : Event} {s t : State} (h : runEvent e s = .next t) :
    (∃ w, e = .hostWrite 0x004 4 w ∧ runCommand w s = .next t) ∨
    (∃ a v, e = .hostWrite a 4 v ∧ a % 4 = 0 ∧ a ≤ 0xFFC ∧ a ≠ 0x004 ∧ t = hostStore a v s) ∨
    (∃ a, e = .hostRead a 4 ∧ a % 4 = 0 ∧ a ≤ 0xFFC ∧ t = { s with hostRdata := hostLoad a s }) ∨
    (∃ n, e = .serAccept n ∧ s.framer = .txWrite ∧ n ≤ s.txlen.toNat ∧ t = acceptCount n s) ∨
    (∃ n, e = .serAccept n ∧ s.framer ≠ .txWrite ∧ t = s) ∨
    (e = .serTxdone ∧ t = txDone s) ∨
    (∃ b, e = .serRxbyte b ∧ t = rxByte b s) ∨
    (e = .tick ∧ t = tickStep s) ∨
    (e = .reset ∧ t = resetStep s) := by
  have ok : ∀ a size, hostAccessOk a size = true → size = 4 ∧ a % 4 = 0 ∧ a ≤ 0xFFC := by
    intro a size; simp [hostAccessOk, and_assoc]
  cases e with
  | hostWrite a size v =>
    simp only [runEvent] at h
    split at h
    · rename_i ha
      obtain ⟨rfl, h1, h2⟩ := ok _ _ ha
      split at h
      · rename_i hc; exact .inl ⟨v, by rw [hc]; rfl, h⟩
      · rename_i hc; cases h; exact .inr (.inl ⟨a, v, rfl, h1, h2, hc, rfl⟩)
    · cases h
  | hostRead a size =>
    simp only [runEvent] at h
    split at h
    · rename_i ha
      obtain ⟨rfl, h1, h2⟩ := ok _ _ ha
      cases h; exact .inr (.inr (.inl ⟨a, rfl, h1, h2, rfl⟩))
    · cases h
  | serAccept n =>
    simp only [runEvent] at h
    split at h
    · rename_i hf
      split at h
      · rename_i hn; cases h; exact .inr (.inr (.inr (.inl ⟨n, rfl, hf, hn, rfl⟩)))
      · cases h
    · rename_i hf; cases h; exact .inr (.inr (.inr (.inr (.inl ⟨n, rfl, hf, rfl⟩))))
  | serTxdone => cases h; simp
  | serRxbyte b => cases h; simp
  | tick => cases h; simp
  | reset => cases h; simp

/-- The ways a CMD write ends: an illegal word, a command other than the RTU commands, an RTU command (40_control R120). -/
theorem runCommand_cases {w : Word} {s t : State} (h : runCommand w s = .next t) :
    ((∃ r, decode w = .error r) ∧ t = { s with cres := .illegal }) ∨
    (∃ i, decode w = .ok i ∧ i ∉ rtuCommands ∧ exec i s = .next t) ∨
    (∃ i, decode w = .ok i ∧ i ∈ rtuCommands ∧ exec i s = .next t) := by
  unfold runCommand at h
  split at h
  · rename_i i hi
    by_cases hr : i ∈ rtuCommands
    · exact .inr (.inr ⟨i, hi, hr, h⟩)
    · exact .inr (.inl ⟨i, hi, hr, h⟩)
  · rename_i r hr; cases h; exact .inl ⟨⟨r, hr⟩, rfl⟩

/-- A step is one step of an agent, on the state with the inbox or the draw counter moved on, or no step. -/
theorem step_cases {s t : State} (h : step s = .next t) :
    (∃ e rest, s.inbox = e :: rest ∧ runEvent e { s with inbox := rest } = .next t) ∨
    (s.inbox = [] ∧ ∃ e, runEvent e { s with drawIx := s.drawIx + 1 } = .next t) ∨
    (s.inbox = [] ∧ t = { s with drawIx := s.drawIx + 1 }) := by
  unfold step at h
  split at h
  · rename_i e rest he; exact .inl ⟨e, rest, he, h⟩
  · rename_i he
    unfold runDraw at h
    split at h
    · exact .inr (.inl ⟨he, _, h⟩)
    · cases h; exact .inr (.inr ⟨he, rfl⟩)

/-- A listed step of the environment is taken whole. -/
theorem step_cons {s : State} {e : Event} {rest : List Event} (h : s.inbox = e :: rest) :
    step s = runEvent e { s with inbox := rest } := by
  simp only [step, h]

end Sys2Proof.Machine
end

