-- ==== Sys2Proof/Laws/Views.lean ====
section
/-! SUPPORT. The view operations in the terms claims use: the range check, the value got, the bits stored and the dirty
rule, each for every encoding at once (spec/42_views.md rules R172 to R177). -/

namespace Sys2Proof.Machine

/-- What every row of the field table has in common: its lengths, and its place in the group's block at every legal index
(42_views R171). -/
theorem fieldRows_shape : ∀ r ∈ fieldRows, 1 ≤ r.2.len ∧ r.2.len ≤ 16 ∧
    (r.2.enc = .bit → r.2.len = 1) ∧ (r.2.enc = .en6 → r.2.len = 4) ∧ (r.2.enc = .nz → r.2.len = 4) ∧
    (r.2.enc = .sgn → 2 ≤ r.2.len) ∧ (r.2.enc = .temp → 2 ≤ r.2.len) ∧
    r.2.off + (if r.2.indexed then 63 else 0) + r.2.len ≤ 16 * r.2.group.words ∧
    (r.2.coupled = true → r.2.group = .hold ∧ r.2.indexed = false ∧ 8 ≤ r.2.off) := by decide

/-- A looked-up descriptor is a row of the table. -/
theorem fieldRom_mem {sel : BitVec 8} {d : FieldDesc} (h : fieldRom sel = some d) : (sel.toNat, d) ∈ fieldRows := by
  unfold fieldRom at h
  revert h
  generalize sel.toNat = n
  generalize fieldRows = rows
  intro h
  induction rows with
  | nil => simp at h
  | cons r rows ih =>
    obtain ⟨m, e⟩ := r
    rw [List.lookup_cons] at h
    split at h
    · rename_i hm
      have hnm : n = m := by simpa using hm
      injection h with h
      subst h hnm
      simp
    · exact List.mem_cons_of_mem _ (ih h)

theorem viewInRange_iff (d : FieldDesc) (s : State) (hd : 1 ≤ d.len) : viewInRange d s = true ↔ ViewFits d s := by
  simp only [viewInRange, viewOffset, Bool.and_eq_true, Bool.or_eq_true, Bool.not_eq_true', decide_eq_true_eq, inRange_iff,
    ViewFits]
  cases d.indexed <;> simp <;> omega

theorem viewField_eq (d : FieldDesc) (s : State) : viewField d s = fieldSum s.wbuf (viewStart d s) d.len :=
  getf_eq_fieldSum _ _ _ _

theorem decodeEnc_eq (d : FieldDesc) (s : State) (hd : d.enc = .sgn ∨ d.enc = .temp → 2 ≤ d.len) :
    decodeEnc d.enc (viewField d s) d.len = viewValue d s := by
  have hs : 2 ≤ d.len → smDecode (viewField d s) d.len = signedSum s.wbuf (viewStart d s) d.len := fun h =>
    smDecode_getf _ _ _ h
  unfold decodeEnc viewValue
  cases he : d.enc <;> simp only
  · rw [viewField_eq]
  · rw [viewField_eq]
  · rw [hs (hd (.inl he))]; rfl
  · rw [hs (hd (.inr he))]; rfl
  · rw [viewField_eq]
  · rw [viewField_eq]; simp

/-- The bits a VIEW_SET writes, one by one (42_views R174). -/
theorem testBit_encBits (d : FieldDesc) (s : State) (hb : d.enc = .bit → d.len = 1) (h1 : 1 ≤ d.len) {k : Nat}
    (hk : k < d.len) : (encBits d.enc d.len s).testBit k = viewBit d s k := by
  unfold encBits viewBit
  cases he : d.enc <;> simp only
  · have := hb he
    obtain rfl : k = 0 := by omega
    unfold valBool; cases (s.fldVal != 0) <;> rfl
  · simp [valUnsigned, Nat.testBit_mod_two_pow, hk, BitVec.testBit_toNat]
  · rw [testBit_smEncode _ h1 hk]; rfl
  · rw [testBit_smEncode _ h1 hk, valTenths, rhaz10_eq_tenths]; rfl
  · unfold valBool; cases (s.fldVal != 0) <;> simp
  · unfold valBool; cases (s.fldVal != 0) <;> simp [BitVec.testBit_toNat]

/-- The bits written fit in the field (42_views R174). -/
theorem encBits_lt (d : FieldDesc) (s : State) (hb : d.enc = .bit → d.len = 1) (h6 : d.enc = .en6 → d.len = 4)
    (hz : d.enc = .nz → d.len = 4) (h1 : 1 ≤ d.len) : encBits d.enc d.len s < 2 ^ d.len := by
  unfold encBits
  cases he : d.enc <;> simp only
  · rw [hb he]; unfold valBool; cases (s.fldVal != 0) <;> decide
  · exact Nat.mod_lt _ (by positivity)
  · exact smEncode_lt _ h1
  · exact smEncode_lt _ h1
  · rw [h6 he]; split <;> decide
  · rw [hz he]
    split
    · exact s.params.filterSetCode.isLt
    · decide

/-- The dirty comparison, in terms of the values (42_views R174). -/
theorem encReq_ne_encOld (d : FieldDesc) (s : State) (hb : d.enc = .bit → d.len = 1)
    (hd : d.enc = .sgn ∨ d.enc = .temp → 2 ≤ d.len) :
    encReq d.enc s ≠ encOld d.enc (viewField d s) d.len ↔ ViewChanges d s := by
  have hs : 2 ≤ d.len → smDecode (viewField d s) d.len = signedSum s.wbuf (viewStart d s) d.len := fun h =>
    smDecode_getf _ _ _ h
  unfold encReq encOld ViewChanges
  cases he : d.enc <;> simp only
  · have hl := hb he
    have hlt : viewField d s < 2 ^ d.len := getf_lt _ _ _ _
    rw [hl] at hlt
    rw [← viewField_eq]
    unfold valBool
    by_cases hv : s.fldVal = 0
    · simp [hv]; omega
    · have : (s.fldVal != 0) = true := by simpa using hv
      simp only [this, Bool.toNat_true, ne_eq, hv, not_false_eq_true, true_iff]; omega
  · rw [← viewField_eq]; unfold valUnsigned; simp
  · rw [hs (hd (.inl he))]; rfl
  · rw [hs (hd (.inr he)), valTenths, rhaz10_eq_tenths]; rfl
  · rw [← viewField_eq]
    unfold valBool
    by_cases hv : s.fldVal = 0 <;> by_cases hf : viewField d s = 6 <;> simp [hv, hf]
  · rw [← viewField_eq]
    unfold valBool
    by_cases hv : s.fldVal = 0 <;> by_cases hf : viewField d s = 0 <;> simp [hv, hf]

end Sys2Proof.Machine
end

