-- ==== Sys2Proof/Tests/Slice0.lean ====
section
/-! SUPPORT. The model's own tests: well-formedness, the words of every command, one step per test on small states with
expected results from spec/95_test_vectors.md (its sections are named), and a witness for every statement that has
hypotheses. -/

open Sys2Proof Sys2Proof.Machine

namespace Sys2Proof.Tests

-- The kernel evaluates these one after another, not all at once.
set_option Elab.async false

/-- A field of the state an outcome goes on with. -/
def get {α : Type} (o : Host.Outcome State Fault Refusal) (f : State → α) : Option α :=
  match o with
  | .next s => some (f s)
  | .fault _ => none
  | .refused _ => none

/-- An outcome whose next state passes a check has a next state with what is checked. -/
theorem next_with {o : Host.Outcome State Fault Refusal} {P : State → Prop} [DecidablePred P]
    (h : get o (fun t => decide (P t)) = some true) : ∃ t, o = .next t ∧ P t := by
  cases o with
  | next s => exact ⟨s, rfl, by simpa [get] using h⟩
  | fault r => cases r
  | refused r => simp [get] at h

/-- Whether a word is illegal. -/
def isIllegal (w : Word) : Bool :=
  match decode w with
  | .ok _ => false
  | .error _ => true

/-- Reset, with the codec window and value registers given. -/
def codecAt (m : Memory 16) (wcnt : BitVec 8) (off : BitVec 12) (len : BitVec 6) (v : Word) : State :=
  { State.reset with wbuf := m, fldWcnt := wcnt, fldOff := off, fldLen := len, fldVal := v }

/-- Reset, with a view selected. -/
def viewAt (m : Memory 16) (sel idx : BitVec 8) (v : Word) : State :=
  { State.reset with wbuf := m, fldSel := sel, fldIdx := idx, fldVal := v }

/-- The holding image of 95_test_vectors section 2.4. -/
def holdImage : Memory 16 := [(0, 0x3261), (1, 0x0002), (2, 0x00EB)]

/-- Reset, with the operands of an RTU command (the pseudo-instruction RTUARGS of 30_encoding R105). -/
def rtuArgs (sl : BitVec 8) (ad : BitVec 16) (n : BitVec 8) (x : BitVec 7) (tm : BitVec 16) (m : Memory 16) : State :=
  { State.reset with slave := sl, addr := ad, count := n, xbase := x, timeout := tm, wbuf := m }

/-- The read of 95_test_vectors section 2.8 in a state of the framer, with the response bytes received so far. -/
def readAt (f : FramerState) (ys : List Byte) : State :=
  { rtuArgs 1 0x07DF 3 0 100 [] with
    framer := f
    res    := .pending
    dir    := if f = .rx then 0 else 3
    lat    := ⟨.read, 0x03, 1, 0x07DF, 3, 0, 100⟩
    txlen  := 8
    explen := 11
    rxlen  := BitVec.ofNat 9 ys.length
    txbuf  := Memory.writeList 256 [] 0 [0x01, 0x03, 0x07, 0xDF, 0x00, 0x03, 0x35, 0x45]
    rxbuf  := Memory.writeList 256 [] 0 ys }

/-- The write of 95_test_vectors section 2.8 in RX, with the response bytes received so far. -/
def writeAt (ys : List Byte) : State :=
  { rtuArgs 1 0x07DF 3 0 100 holdImage with
    framer := .rx
    res    := .pending
    lat    := ⟨.write, 0x10, 1, 0x07DF, 3, 0, 100⟩
    txlen  := 15
    explen := 8
    rxlen  := BitVec.ofNat 9 ys.length
    rxbuf  := Memory.writeList 256 [] 0 ys }

/-- The good read response of section 2.8 but for its last byte. -/
def goodPrefix : List Byte := [0x01, 0x03, 0x06, 0x32, 0x61, 0x00, 0x02, 0x00, 0xEB, 0x79]

/-! ### Well-formedness: one ill-formed term per check (30_encoding R90, R93) -/

theorem test_wf_reserved_low_refused : CommandFields.wf ⟨0x00, false, 0b0000001, 0, 0⟩ = false := by decide +kernel
theorem test_wf_reserved_high_refused : CommandFields.wf ⟨0x00, false, 0, 0, 0x80⟩ = false := by decide +kernel
theorem test_wf_opcode_refused : ∀ o ∈ [0x03, 0x0F, 0x1B, 0x1F, 0x23, 0xFF],
    CommandFields.wf ⟨BitVec.ofNat 8 o, false, 0, 0, 0⟩ = false := by decide +kernel
theorem test_wf_dirty_enable_refused : CommandFields.wf ⟨0x10, true, 0, 0, 0⟩ = false := by decide +kernel
theorem test_wf_immediate_refused : CommandFields.wf ⟨0x01, false, 0, 0x01, 0⟩ = false := by decide +kernel
theorem test_wf_accepted : CommandFields.wf ⟨0x11, true, 0, 0, 0⟩ = true ∧
    CommandFields.wf ⟨0x02, false, 0, 0xFF, 0⟩ = true := by decide +kernel

/-! ### Decoding: a word per constructor, its fields written out as rrrrrrrr iiiiiiii rrrrrrrd oooooooo (30_encoding R90) -/

theorem test_decode_control_crc :
    decode (0b00000000#8 ++ 0b00000000#8 ++ 0b0000000#7 ++ 0b0#1 ++ 0b00000000#8) = .ok .nop ∧
    decode (0b00000000#8 ++ 0b00000000#8 ++ 0b0000000#7 ++ 0b0#1 ++ 0b00000001#8) = .ok .crcInit ∧
    decode (0b00000000#8 ++ 0b10100101#8 ++ 0b0000000#7 ++ 0b0#1 ++ 0b00000010#8) = .ok (.crcByte 0xA5) := by decide +kernel

theorem test_decode_codec_bits :
    decode (0b00000000#8 ++ 0b00000000#8 ++ 0b0000000#7 ++ 0b0#1 ++ 0b00010000#8) = .ok .getBit ∧
    decode (0b00000000#8 ++ 0b00000000#8 ++ 0b0000000#7 ++ 0b1#1 ++ 0b00010001#8) = .ok (.setBit true) ∧
    decode (0b00000000#8 ++ 0b00000000#8 ++ 0b0000000#7 ++ 0b0#1 ++ 0b00010001#8) = .ok (.setBit false) ∧
    decode (0b00000000#8 ++ 0b00000000#8 ++ 0b0000000#7 ++ 0b0#1 ++ 0b00010010#8) = .ok .getUns ∧
    decode (0b00000000#8 ++ 0b00000000#8 ++ 0b0000000#7 ++ 0b1#1 ++ 0b00010011#8) = .ok (.setUns true) := by decide +kernel

theorem test_decode_codec_signed :
    decode (0b00000000#8 ++ 0b00000000#8 ++ 0b0000000#7 ++ 0b0#1 ++ 0b00010100#8) = .ok .getSgn ∧
    decode (0b00000000#8 ++ 0b00000000#8 ++ 0b0000000#7 ++ 0b1#1 ++ 0b00010101#8) = .ok (.setSgn true) ∧
    decode (0b00000000#8 ++ 0b00000000#8 ++ 0b0000000#7 ++ 0b0#1 ++ 0b00010110#8) = .ok .getTemp ∧
    decode (0b00000000#8 ++ 0b00000000#8 ++ 0b0000000#7 ++ 0b1#1 ++ 0b00010111#8) = .ok (.setTemp true) := by decide +kernel

theorem test_decode_views :
    decode (0b00000000#8 ++ 0b00000000#8 ++ 0b0000000#7 ++ 0b0#1 ++ 0b00011000#8) = .ok .viewGet ∧
    decode (0b00000000#8 ++ 0b00000000#8 ++ 0b0000000#7 ++ 0b1#1 ++ 0b00011001#8) = .ok (.viewSet true) ∧
    decode (0b00000000#8 ++ 0b00000000#8 ++ 0b0000000#7 ++ 0b0#1 ++ 0b00011010#8) = .ok .grpSetup := by decide +kernel

theorem test_decode_rtu :
    decode (0b00000000#8 ++ 0b00000000#8 ++ 0b0000000#7 ++ 0b0#1 ++ 0b00100000#8) = .ok .rtuRdHold ∧
    decode (0b00000000#8 ++ 0b00000000#8 ++ 0b0000000#7 ++ 0b0#1 ++ 0b00100001#8) = .ok .rtuRdInput ∧
    decode (0b00000000#8 ++ 0b00000000#8 ++ 0b0000000#7 ++ 0b0#1 ++ 0b00100010#8) = .ok .rtuWrMulti := by decide +kernel

/-- The illegal words of section 2.1. -/
theorem test_decode_illegal : ([0x00000100, 0x00000006, 0x00000003, 0x0000001B, 0x00000023, 0x000000FF, 0x00010001,
    0x00FF0102, 0x00000110, 0x00000200, 0x00008000, 0x01000000, 0x80000010, 0x00000120] : List Word).all isIllegal = true := by
  decide +kernel

theorem test_table_word : decodeTableWord 32 0x00000111 = some (.setBit true) ∧ decodeTableWord 32 0x000000FF = none := by
  decide +kernel

/-- A table word is the very next step from reset. -/
theorem test_fetch_word : get (step (State.reset.withFetchWord 32 0x00FF0002)) (·.crc) = some 0x00FF := by decide +kernel

/-! ### One step of each command (sections 2.2 to 2.6) -/

theorem test_nop : get (exec .nop { State.reset with cres := .illegal }) (·.cres) = some .ok := by decide +kernel
theorem test_crc_init : get (exec .crcInit { State.reset with crc := 0x1234 }) (·.crc) = some 0xFFFF := by decide +kernel
theorem test_crc_byte : get (exec (.crcByte 0x56) { State.reset with crc := 0x1234 }) (·.crc) = some 0xE993 := by
  decide +kernel
theorem test_crc_reference : crc16 [0x31, 0x32, 0x33, 0x34, 0x35, 0x36, 0x37, 0x38, 0x39] = 0x4B37 := by decide +kernel

theorem test_get_bit : get (exec .getBit (codecAt [(0, 0x0002)] 1 1 0 0)) (·.fldRes) = some 1 := by decide +kernel
theorem test_get_bit_out_of_range : get (exec .getBit (codecAt [(1, 0x0001)] 1 16 0 0)) (·.fldRes) = some 0 := by decide +kernel
theorem test_set_bit : get (exec (.setBit false) (codecAt [] 9 21 0 1)) (fun s => (s.wbuf, s.fldDirty)) =
    some ([(1, 0x0020)], false) := by decide +kernel
theorem test_set_bit_dirty : get (exec (.setBit true) (codecAt [] 1 0 0 0x80000000)) (fun s => (s.wbuf, s.fldDirty)) =
    some ([(0, 0x0001)], true) := by decide +kernel
theorem test_get_uns_crosses_words : get (exec .getUns (codecAt [(0, 0x8000), (1, 0x0001)] 2 15 2 0)) (·.fldRes) = some 3 := by
  decide +kernel
theorem test_get_uns_length_33 : get (exec .getUns (codecAt [(0, 0x8000)] 4 0 33 0)) (·.fldRes) = some 0 := by decide +kernel
theorem test_set_uns : get (exec (.setUns false) (codecAt [(0, 0x3061)] 1 8 3 2)) (·.wbuf) = some [(0, 0x3261)] := by decide +kernel
theorem test_set_uns_dirty_compares_whole :
    get (exec (.setUns true) (codecAt [(0, 0x0100)] 1 8 3 9)) (fun s => (s.wbuf, s.fldDirty)) =
      some ([(0, 0x0100)], true) := by decide +kernel
theorem test_get_sgn : get (exec .getSgn (codecAt [(0, 0x0092)] 1 0 8 0)) (·.fldRes) = some 0xFFFFFFEE := by decide +kernel
theorem test_get_sgn_widest : get (exec .getSgn (codecAt [(0, 0xFFFF), (1, 0xFFFF)] 2 0 32 0)) (·.fldRes) =
    some 0x80000001 := by decide +kernel
theorem test_set_sgn_magnitude_cut : get (exec (.setSgn false) (codecAt [] 1 0 8 (BitVec.ofInt 32 (-200)))) (·.wbuf) =
    some [(0, 0x00C8)] := by decide +kernel
theorem test_set_sgn_negative_zero_clean :
    get (exec (.setSgn true) (codecAt [(0, 0x0080)] 1 0 8 0)) (fun s => (s.wbuf, s.fldDirty)) =
      some ([], false) := by decide +kernel
theorem test_get_temp : get (exec .getTemp (codecAt [(0, 0x80EB)] 1 0 16 0)) (·.fldRes) = some 0xFFFFFF15 := by decide +kernel
theorem test_set_temp_rounds_away : get (exec (.setTemp false) (codecAt [] 3 32 16 0xFFFFF6D7)) (·.wbuf) =
    some [(2, 0x80EB)] := by decide +kernel
theorem test_set_temp_dirty : get (exec (.setTemp true) (codecAt [(2, 0x00EB)] 3 32 16 2344)) (fun s => (s.wbuf, s.fldDirty)) =
    some ([(2, 0x00EA)], true) := by decide +kernel

theorem test_view_get : get (exec .viewGet (viewAt holdImage 0x37 0 0)) (·.fldRes) = some 0x000000EB := by decide +kernel
theorem test_view_get_indexed : get (exec .viewGet (viewAt [(0, 0x0001), (1, 0x0020)] 0x02 5 0)) (·.fldRes) = some 1 ∧
    get (exec .viewGet (viewAt [(0, 0x0001), (1, 0x0020)] 0x02 64 0)) (·.fldRes) = some 0 := by decide +kernel
theorem test_view_set_coupled :
    get (exec (.viewSet true) (viewAt [(0, 0x3051)] 0x33 0 3)) (fun s => (s.wbuf, s.fldDirty)) =
      some ([(0, 0x3061)], true) := by decide +kernel
theorem test_view_set_filter :
    get (exec (.viewSet true) (viewAt [(1, 0x0032)] 0x35 0 1)) (fun s => (s.wbuf, s.fldDirty)) =
      some ([(1, 0x0012)], false) := by decide +kernel
theorem test_grp_setup : get (exec .grpSetup { State.reset with grpSel := 3, grpUnit := 63 })
    (fun s => (s.addr, s.count, s.grpKind, s.cres)) = some (0x088D, 3, true, .ok) := by decide +kernel
theorem test_grp_setup_unit_64 : get (exec .grpSetup { State.reset with grpSel := 3, grpUnit := 64 })
    (fun s => (s.addr, s.count, s.grpKind, s.cres)) = some (0, 0, false, .errArg) := by decide +kernel

theorem test_rtu_rd_hold : get (exec .rtuRdHold (rtuArgs 1 0x07DF 3 0 100 [])) (fun s => (offeredFrame s, s.explen)) =
    some (some [0x01, 0x03, 0x07, 0xDF, 0x00, 0x03, 0x35, 0x45], 11) := by decide +kernel
theorem test_rtu_rd_hold_status : get (exec .rtuRdHold (rtuArgs 1 0x07DF 3 0 100 [])) (fun s => (statusWord s, s.dir)) =
    some (0x00000711, 0b11) := by decide +kernel
theorem test_rtu_rd_input : get (exec .rtuRdInput (rtuArgs 1 0x0E8E 2 0 100 [])) (fun s => (offeredFrame s, s.explen)) =
    some (some [0x01, 0x04, 0x0E, 0x8E, 0x00, 0x02, 0x13, 0x08], 9) := by decide +kernel
theorem test_rtu_wr_multi :
    get (exec .rtuWrMulti (rtuArgs 0xFF 0xFFFF 1 0 100 [(0, 0xABCD)])) (fun s => (offeredFrame s, s.explen)) =
      some (some [0xFF, 0x10, 0xFF, 0xFF, 0x00, 0x01, 0x02, 0xAB, 0xCD, 0x4B, 0x91], 8) := by decide +kernel
theorem test_rtu_wr_multi_refused :
    get (exec .rtuWrMulti (rtuArgs 1 0 124 0 1000 [])) (fun s => (s.res, s.cres, s.framer, s.dir)) =
      some (.errArg, .ok, .idle, 0) := by decide +kernel

/-! ### The steps of the serial port, the time base, reset and the host (sections 2.1 and 2.8) -/

theorem test_accept_short : get (runEvent (.serAccept 7) (readAt .txWrite [])) (fun s => (s.framer, s.res, s.dir)) =
    some (.idle, .errWriteCount, 0) := by decide +kernel
theorem test_good_response : get (runEvent (.serRxbyte 0x20) (readAt .rx goodPrefix)) (fun s => (s.res, s.rxlen, s.wbuf)) =
    some (.ok, 11, holdImage) := by decide +kernel
theorem test_bad_crc : get (runEvent (.serRxbyte 0x21) (readAt .rx goodPrefix)) (fun s => (s.res, s.rxlen, s.wbuf)) =
    some (.errCrc, 11, []) := by decide +kernel
theorem test_frame_before_crc : get (runEvent (.serRxbyte 0x20)
    (readAt .rx [0x02, 0x03, 0x06, 0x32, 0x61, 0x00, 0x02, 0x00, 0xEB, 0x79])) (·.res) = some .errFrame := by decide +kernel
theorem test_write_echo : get (runEvent (.serRxbyte 0x86) (writeAt [0x01, 0x10, 0x07, 0xDF, 0x00, 0x03, 0xB0]))
    (fun s => (s.res, s.wbuf)) = some (.ok, holdImage) := by decide +kernel
theorem test_write_echo_bad_count : get (runEvent (.serRxbyte 0x46) (writeAt [0x01, 0x10, 0x07, 0xDF, 0x00, 0x02, 0x71]))
    (·.res) = some .errFrame := by decide +kernel
theorem test_deadline : get (runEvent .tick { readAt .txWait [] with elapsed := 99 })
    (fun s => (s.framer, s.res, s.dir, s.elapsed)) = some (.idle, .errTimeout, 0, 100) := by decide +kernel
theorem test_host_masks : get (runEvent (.hostWrite 0x00C 4 0xFFFFFFFF) State.reset) (hostLoad 0x00C) = some 0x000000FF ∧
    get (runEvent (.hostWrite 0x100 4 0xFFFFFFFF) State.reset) (hostLoad 0x100) = some 0x0000FFFF ∧
    get (runEvent (.hostWrite 0x000 4 0x12345678) State.reset) (hostLoad 0x000) = some 0x44334E54 := by decide +kernel
theorem test_reset_mid_transaction : get (runEvent .reset (readAt .rx goodPrefix)) (fun s => (statusWord s, s.rxlen, s.crc)) =
    some (0, 0, 0xFFFF) := by decide +kernel

/-! ### Witnesses: states and operands that meet the hypotheses of the statements, clause by clause -/

/-- The states of a transaction used below are legal. -/
theorem witness_inv_tx : (readAt .txWrite []).Inv ∧ (readAt .txWait []).Inv :=
  ⟨⟨by decide +kernel, by decide +kernel, by decide +kernel, by decide +kernel, by decide +kernel, by decide +kernel⟩,
   ⟨by decide +kernel, by decide +kernel, by decide +kernel, by decide +kernel, by decide +kernel, by decide +kernel⟩⟩
theorem witness_inv_rx : (readAt .rx []).Inv ∧ (readAt .rx goodPrefix).Inv :=
  ⟨⟨by decide +kernel, by decide +kernel, by decide +kernel, by decide +kernel, by decide +kernel, by decide +kernel⟩,
   ⟨by decide +kernel, by decide +kernel, by decide +kernel, by decide +kernel, by decide +kernel, by decide +kernel⟩⟩
theorem witness_inv_write : (writeAt [0x01, 0x10, 0x07, 0xDF, 0x00, 0x03, 0xB0]).Inv :=
  ⟨by decide +kernel, by decide +kernel, by decide +kernel, by decide +kernel, by decide +kernel, by decide +kernel⟩

theorem witness_EncodeOfDecode : decode 0x00FF0002 = .ok (.crcByte 0xFF) := by decide +kernel
theorem witness_TableRowDecodes : decode 0x00FF0002 = .ok (.crcByte 0xFF) ∧
    (∀ r ∈ opcodeTable, r.pattern &&& r.mask = r.pattern) ∧ (0x00FF0002 : Word) &&& 0xFF00FFFF = 0x00000002 := by decide +kernel
theorem witness_IllegalWordOnlySetsCres : ∀ w ∈ ([0x03, 0x0F, 0x1B, 0x1F, 0x23, 0xFF, 0x200, 0x8000, 0x01000000, 0x80000000,
    0x100, 0x110, 0x00010000, 0x00FF0011] : List Word), ∃ r, decode w = .error r := by
  intro w h
  simp only [List.mem_cons, List.not_mem_nil, or_false] at h
  rcases h with rfl | rfl | rfl | rfl | rfl | rfl | rfl | rfl | rfl | rfl | rfl | rfl | rfl | rfl <;> exact ⟨_, rfl⟩
theorem witness_StepRunsDecodedCommand :
    ({ State.reset with inbox := [.hostWrite 0x004 4 0x1A, .tick] } : State).inbox = .hostWrite 0x004 4 0x1A :: [.tick] ∧
    decode 0x1A = .ok .grpSetup := by decide +kernel
theorem witness_EveryEnabledStepCompletes :
    (∀ e ∈ [Event.hostWrite 0xFFC 4 0, .hostRead 0 4, .serAccept 0, .serAccept 8, .serRxbyte 0, .tick, .reset],
      eventEnabled e (readAt .txWrite []) = true) ∧
    eventEnabled .serTxdone (readAt .txWait []) = true ∧ State.reset.inbox = [] := by decide +kernel
theorem witness_UndefinedHostAccessRefused :
    (∀ a ∈ [0x000, 0xFFC], hostAccessOk a 4 = true) ∧
    (∀ p ∈ [(0x1000, 4), (0xFFD, 4), (0x002, 4), (0x000, 2), (0x000, 8)], hostAccessOk p.1 p.2 = false) := by decide +kernel
theorem witness_CresChangesOnlyByCommand :
    (∃ t, runEvent (.hostWrite 0x004 4 0x06) State.reset = .next t ∧ t.cres ≠ State.reset.cres) ∧
    (∃ t, runEvent .reset { State.reset with cres := .busyRej } = .next t ∧ t.cres ≠ .busyRej) :=
  ⟨next_with (by decide +kernel), next_with (by decide +kernel)⟩
theorem witness_BusyRejection : Instr.rtuRdHold ∈ rtuCommands ∧ (readAt .rx []).framer ≠ .idle ∧
    Instr.getUns ∉ rtuCommands ∧ ∃ t, exec .getUns State.reset = .next t :=
  ⟨by decide +kernel, by decide +kernel, by decide +kernel, exec_next _ _⟩
theorem witness_CommandResultCodes :
    (∃ t, exec .viewGet (viewAt [] 0x36 0 0) = .next t ∧ t.cres ≠ .ok) ∧
    (∃ t, exec .rtuRdHold (rtuArgs 1 0x07DF 3 0 100 []) = .next t ∧ t.cres = .ok) ∧
    Instr.rtuRdHold ∈ rtuCommands ∧ Instr.viewGet ∉ rtuCommands :=
  ⟨next_with (by decide +kernel), next_with (by decide +kernel), by decide +kernel, by decide +kernel⟩
theorem witness_CrcOfBodyByCommands :
    ({ State.reset with inbox := [.hostWrite 0x004 4 0x00000001, .hostWrite 0x004 4 0x000A0002] } : State).inbox =
      .hostWrite 0x004 4 0x00000001 :: (([0x0A] : List Byte).map (fun b =>
        Event.hostWrite 0x004 4 (BitVec.ofNat 32 (0x10000 * b.toNat + 0x0002))) ++ []) := by decide +kernel
theorem witness_CrcSeesOneByteChange : (0x00 : Byte) ≠ 0x80 := by decide +kernel

/-- Codec accesses at the edges of the range check, both ways. -/
theorem witness_codec_range :
    CodecFits (codecAt [] 1 15 1 0) 1 ∧ ¬ CodecFits (codecAt [] 1 16 1 0) 1 ∧ CodecFits (codecAt [] 128 2016 32 0) 32 ∧
    CodecFits { codecAt [] 1 0 16 0 with fldBase := 127 } 16 ∧ ¬ CodecFits { codecAt [] 2 0 16 0 with fldBase := 127 } 16 ∧
    ¬ CodecFits (codecAt [] 129 0 1 0) 1 := by decide +kernel
theorem witness_UnsignedRoundTrip : ∃ s t u, s = codecAt [] 2 0 32 0xDEADBEEF ∧ s.fldLen.toNat = 32 ∧ CodecFits s 32 ∧
    exec (.setUns true) s = .next t ∧ exec .getUns t = .next u ∧ s.fldVal.toNat < 2 ^ 32 ∧
    (∀ i, wbit s.wbuf i = false) ∧ ∃ z, exec .getUns s = .next z := by
  obtain ⟨t, ht⟩ := exec_next (.setUns true) (codecAt [] 2 0 32 0xDEADBEEF)
  obtain ⟨u, hu⟩ := exec_next .getUns t
  exact ⟨_, t, u, rfl, by decide +kernel, by decide +kernel, ht, hu, by decide +kernel,
    fun _ => by simp [codecAt, wbit], exec_next _ _⟩
theorem witness_SignedRoundTrip : ∃ s t u n, s = codecAt [] 1 0 2 (BitVec.ofInt 32 (-1)) ∧ s.fldLen.toNat = 2 ∧
    CodecFits s 2 ∧ s.fldVal.toInt.natAbs ≤ 2 ^ (2 - 1) - 1 ∧ s.fldVal.toInt < 0 ∧ exec (.setSgn true) s = .next t ∧
    exec .getSgn t = .next u ∧ exec (.setSgn true) { s with fldVal := -s.fldVal } = .next n := by
  obtain ⟨t, ht⟩ := exec_next (.setSgn true) (codecAt [] 1 0 2 (BitVec.ofInt 32 (-1)))
  obtain ⟨u, hu⟩ := exec_next .getSgn t
  obtain ⟨n, hn⟩ := exec_next (.setSgn true) { codecAt [] 1 0 2 (BitVec.ofInt 32 (-1)) with
    fldVal := -(codecAt [] 1 0 2 (BitVec.ofInt 32 (-1))).fldVal }
  exact ⟨_, t, u, n, rfl, by decide +kernel, by decide +kernel, by decide +kernel, by decide +kernel, ht, hu, hn⟩
theorem witness_TemperatureRoundTrip : ∃ s t u n, s = codecAt [] 3 32 16 2346 ∧ s.fldLen.toNat = 16 ∧ CodecFits s 16 ∧
    exec (.setTemp true) s = .next t ∧ exec .getTemp t = .next u ∧ 235 ≤ 2 ^ (16 - 1) - 1 ∧
    rhaz10 (2350 : Word).toInt = rhaz10 s.fldVal.toInt ∧ exec (.setTemp true) { s with fldVal := 2350 } = .next n := by
  obtain ⟨t, ht⟩ := exec_next (.setTemp true) (codecAt [] 3 32 16 2346)
  obtain ⟨u, hu⟩ := exec_next .getTemp t
  obtain ⟨n, hn⟩ := exec_next (.setTemp true) { codecAt [] 3 32 16 2346 with fldVal := 2350 }
  exact ⟨_, t, u, n, rfl, by decide +kernel, by decide +kernel, ht, hu, by decide +kernel, by decide +kernel, hn⟩
theorem witness_TemperatureRoundTrip_exact : (2350 : Word).toInt = 10 * 235 ∧ (235 : Int).natAbs ≤ 2 ^ (16 - 1) - 1 := by
  decide +kernel
theorem witness_CodecIgnoresFramer : ∃ t, exec (.setUns true) (codecAt [] 1 0 16 7) = .next t := exec_next _ _

theorem witness_ViewGetResult : fieldRom (viewAt [] 0x36 0 0).fldSel = none ∧
    (fieldRom (viewAt [] 0x37 0 0).fldSel).isSome = true := by decide +kernel
/-- A view at both edges of its range, and an indexed one. -/
theorem witness_ViewSetEffect :
    (∀ d, fieldRom 0x37 = some d → ViewFits d { viewAt [] 0x37 0 0 with fldBase := 125 } ∧
      ¬ ViewFits d { viewAt [] 0x37 0 0 with fldBase := 126 }) ∧
    (∀ d, fieldRom 0x03 = some d → ViewFits d (viewAt [] 0x03 63 0) ∧ ¬ ViewFits d (viewAt [] 0x03 64 0)) ∧
    (∀ d, fieldRom 0x33 = some d → d.coupled = true) := by
  refine ⟨fun d h => ?_, fun d h => ?_, fun d h => ?_⟩ <;> injection h with h <;> subst h <;> decide +kernel
/-- One field per encoding, each with a value its clause takes. -/
theorem witness_ViewRoundTrip : State.reset.params.wf ∧
    (∀ d, fieldRom 0x30 = some d → d.enc = .bit ∧ ViewFits d (viewAt [] 0x30 0 1)) ∧
    (∀ d, fieldRom 0x31 = some d → d.enc = .en6 ∧ ViewFits d (viewAt [] 0x31 0 7)) ∧
    (∀ d, fieldRom 0x35 = some d → d.enc = .nz ∧ ViewFits d (viewAt [] 0x35 0 1)) ∧
    (∀ d, fieldRom 0x32 = some d → d.enc = .uns ∧ ViewFits d (viewAt [] 0x32 0 9)) ∧
    (∀ d, fieldRom 0x19 = some d → d.enc = .sgn ∧ ViewFits d (viewAt [] 0x19 0 0xFFFFFF81) ∧
      (0xFFFFFF81 : Word).toInt.natAbs < 2 ^ (d.len - 1)) ∧
    (∀ d, fieldRom 0x37 = some d → d.enc = .temp ∧ ViewFits d (viewAt [] 0x37 0 2346) ∧
      (tenths (2346 : Word).toInt).natAbs < 2 ^ (d.len - 1)) ∧
    ∃ t u, exec (.viewSet true) (viewAt [] 0x37 0 2346) = .next t ∧ exec .viewGet t = .next u := by
  refine ⟨by decide +kernel, fun d h => ?_, fun d h => ?_, fun d h => ?_, fun d h => ?_, fun d h => ?_, fun d h => ?_, ?_⟩
  · injection h with h; subst h; decide +kernel
  · injection h with h; subst h; decide +kernel
  · injection h with h; subst h; decide +kernel
  · injection h with h; subst h; decide +kernel
  · injection h with h; subst h; decide +kernel
  · injection h with h; subst h; decide +kernel
  · obtain ⟨t, ht⟩ := exec_next (.viewSet true) (viewAt [] 0x37 0 2346)
    obtain ⟨u, hu⟩ := exec_next .viewGet t
    exact ⟨t, u, ht, hu⟩
theorem witness_UnnamedBitsUntouched : (fieldRom 0x33).isSome = true ∧ 11 ∈ unnamedBits .hold ∧
    ∃ t, exec (.viewSet true) (viewAt holdImage 0x33 0 7) = .next t := ⟨by decide +kernel, by decide +kernel, exec_next _ _⟩

/-- Each way an argument check fails, at its boundary (section 2.7). -/
theorem witness_RtuArgumentError : State.reset.framer = .idle ∧
    ¬ ArgumentsLegal (rtuArgs 1 0 0 0 1000 []) 125 ∧ ¬ ArgumentsLegal (rtuArgs 1 0 126 0 1000 []) 125 ∧
    ¬ ArgumentsLegal (rtuArgs 1 0 124 0 1000 []) 123 ∧ ¬ ArgumentsLegal (rtuArgs 1 0 3 126 1000 []) 125 ∧
    ¬ ArgumentsLegal (rtuArgs 1 0 3 0 0 []) 125 ∧ State.reset.params.maxReadCount = 125 ∧
    State.reset.params.maxWriteCount = 123 := by decide +kernel
theorem witness_ReadRequestAccepted : (rtuArgs 1 0 125 0 1 []).framer = .idle ∧
    ArgumentsLegal (rtuArgs 1 0 125 0 1 []) (rtuArgs 1 0 125 0 1 []).params.maxReadCount ∧
    ArgumentsLegal (rtuArgs 1 0 3 125 1000 []) 125 ∧ ArgumentsLegal (rtuArgs 1 0 1 127 1000 []) 125 := by decide +kernel
theorem witness_WriteRequestAccepted : (rtuArgs 1 0 123 5 1000 []).params.wf ∧ (rtuArgs 1 0 123 5 1000 []).framer = .idle ∧
    ArgumentsLegal (rtuArgs 1 0 123 5 1000 []) (rtuArgs 1 0 123 5 1000 []).params.maxWriteCount := by decide +kernel
theorem witness_SerialTransmitSteps : (readAt .txWrite []).framer = .txWrite ∧ 8 = (readAt .txWrite []).txlen.toNat ∧
    7 < (readAt .txWrite []).txlen.toNat ∧ (readAt .rx []).framer ≠ .txWrite ∧ (readAt .txWait []).framer = .txWait ∧
    (readAt .rx []).framer ≠ .txWait := by decide +kernel
theorem witness_TickStep : State.reset.framer = .idle ∧ (readAt .rx []).framer ≠ .idle ∧
    (1 : BitVec 16).toNat = min ((readAt .rx []).elapsed.toNat + 1) 0xFFFF ∧
    (0xFFFF : BitVec 16).toNat = min (({ readAt .rx [] with elapsed := 0xFFFF } : State).elapsed.toNat + 1) 0xFFFF := by
  decide +kernel
theorem witness_ReceivedByteStored : State.reset.framer ≠ .rx ∧ (readAt .rx []).framer = .rx ∧
    (readAt .rx []).rxlen.toNat + 1 < (readAt .rx []).explen.toNat ∧ (readAt .rx []).explen.toNat ≤ 256 := by decide +kernel
theorem witness_ReadResponseValidated : (readAt .rx goodPrefix).Inv ∧ (readAt .rx goodPrefix).framer = .rx ∧
    (readAt .rx goodPrefix).lat.op = .read ∧
    (readAt .rx goodPrefix).rxlen.toNat + 1 = (readAt .rx goodPrefix).explen.toNat :=
  ⟨witness_inv_rx.2, by decide +kernel, by decide +kernel, by decide +kernel⟩
theorem witness_WriteResponseValidated : ∃ s : State, s.Inv ∧ s.framer = .rx ∧ s.lat.op = .write ∧
    s.rxlen.toNat + 1 = s.explen.toNat := ⟨_, witness_inv_write, by decide +kernel, by decide +kernel, by decide +kernel⟩
theorem witness_GoodReadResponseCommits : ∃ (s : State) (ws : List RegWord), s.Inv ∧ s.framer = .rx ∧ s.lat.op = .read ∧
    s.rxlen = 0 ∧ ws.length = s.lat.count.toNat ∧
    (let body := [s.lat.slave, s.lat.fc, BitVec.ofNat 8 (2 * ws.length)] ++ ws.flatMap (fun v => [highByte v, lowByte v])
     s.inbox = (body ++ [lowByte (crc16 body), highByte (crc16 body)]).map .serRxbyte ++ [.tick]) :=
  ⟨{ readAt .rx [] with inbox := (goodPrefix ++ [0x20]).map .serRxbyte ++ [.tick] }, [0x3261, 0x0002, 0x00EB],
   witness_inv_rx.1, by decide +kernel, by decide +kernel, by decide +kernel, by decide +kernel, by decide +kernel⟩
theorem witness_SilenceEndsInTimeout : ∃ (s : State) (n : Nat), s.Inv ∧ s.framer ≠ .idle ∧
    s.inbox = List.replicate n .tick ++ [.reset] ∧ s.elapsed.toNat + n = s.lat.timeout.toNat :=
  ⟨{ readAt .rx [] with inbox := List.replicate 100 .tick ++ [.reset] }, 100, witness_inv_rx.1, by decide +kernel, rfl, by decide +kernel⟩
theorem witness_DeadlineBoundsTransaction : ∃ (s t : State) (es : List Event), s.Inv ∧ s.framer ≠ .idle ∧
    s.inbox = es ++ [.reset] ∧ s.lat.timeout.toNat ≤ s.elapsed.toNat + es.count .tick ∧
    core.run es.length s = .next t := by
  have h : ∃ t, core.run 4 { readAt .rx [] with
      elapsed := 98, inbox := [.serRxbyte 0x01, .tick, .hostRead 0 4, .tick, .reset] } = .next t ∧ t.framer = .idle :=
    next_with (by decide +kernel)
  obtain ⟨t, ht, -⟩ := h
  exact ⟨_, t, [.serRxbyte 0x01, .tick, .hostRead 0 4, .tick],
    ⟨by decide +kernel, by decide +kernel, by decide +kernel, by decide +kernel, by decide +kernel, by decide +kernel⟩,
    by decide +kernel, rfl, by decide +kernel, ht⟩
/-- Each of the four ways a transaction ends. -/
theorem witness_TransactionEndsFourWays :
    (∃ t, runEvent (.serRxbyte 0x20) (readAt .rx goodPrefix) = .next t ∧ t.framer = .idle ∧ t.res = .ok) ∧
    (∃ t, runEvent .tick { readAt .txWait [] with elapsed := 99 } = .next t ∧ t.framer = .idle) ∧
    (∃ t, runEvent (.serAccept 7) (readAt .txWrite []) = .next t ∧ t.framer = .idle) ∧
    (∃ t, runEvent .reset (readAt .rx []) = .next t ∧ t.framer = .idle) :=
  ⟨next_with (by decide +kernel), next_with (by decide +kernel), next_with (by decide +kernel),
   next_with (by decide +kernel)⟩
/-- A legal state in which the deadline tick ends the transaction, and one in which the last byte ends it with OK. -/
theorem witness_NoShortSuccess :
    (∃ s : State, s.Inv ∧ s.framer ≠ .idle ∧ ∃ t, runEvent .tick s = .next t ∧ t.framer = .idle) ∧
    (∃ s : State, s.Inv ∧ s.framer ≠ .idle ∧ ∃ t, runEvent (.serRxbyte 0x20) s = .next t ∧ t.framer = .idle ∧ t.res = .ok) :=
  ⟨⟨{ readAt .txWait [] with elapsed := 99 },
     ⟨by decide +kernel, by decide +kernel, by decide +kernel, by decide +kernel, by decide +kernel, by decide +kernel⟩,
     by decide +kernel, next_with (by decide +kernel)⟩,
   ⟨_, witness_inv_rx.2, by decide +kernel, next_with (by decide +kernel)⟩⟩
theorem witness_DirectionReleasedOnExit :
    (∃ s : State, s.Inv ∧ Transmitting s ∧ ∃ t, runEvent .serTxdone s = .next t ∧ ¬ Transmitting t ∧ t.framer = .rx) ∧
    (State.reset.Inv ∧ ∃ t, runEvent (.hostWrite 0x004 4 0x20) State.reset = .next t ∧ t.res = .errArg) :=
  ⟨⟨_, witness_inv_tx.2, by decide +kernel, next_with (by decide +kernel)⟩,
   ⟨by decide +kernel, by decide +kernel, by decide +kernel, by decide +kernel, by decide +kernel, by decide +kernel⟩,
   next_with (by decide +kernel)⟩
theorem witness_FailedTransactionKeepsWbuf :
    (∃ t, runEvent (.serRxbyte 0x20) (readAt .rx goodPrefix) = .next t ∧ t.wbuf ≠ (readAt .rx goodPrefix).wbuf) ∧
    (∀ a n v, Event.serRxbyte 0x20 ≠ .hostWrite a n v) ∧ Event.serRxbyte 0x20 ≠ .reset :=
  ⟨next_with (by decide +kernel), by simp, by simp⟩
theorem witness_LatchesIsolateTransaction :
    (∃ t, runEvent (.hostWrite 0x004 4 0x20) (rtuArgs 1 0x07DF 3 0 100 []) = .next t ∧ t.lat ≠ State.reset.lat) ∧
    (∃ t, runEvent .reset (readAt .rx []) = .next t ∧ t.lat ≠ (readAt .rx []).lat) :=
  ⟨next_with (by decide +kernel), next_with (by decide +kernel)⟩
theorem witness_FramerIgnoresHostCrc : (∃ t, exec .rtuRdHold (rtuArgs 1 0x07DF 3 0 100 []) = .next t) ∧
    (∃ t, runEvent .tick (readAt .rx []) = .next t) ∧ (∀ a n v, Event.tick ≠ .hostWrite a n v) ∧
    (∀ a n, Event.tick ≠ .hostRead a n) ∧ Event.tick ≠ .reset :=
  ⟨exec_next _ _, ⟨_, rfl⟩, by simp, by simp, by simp⟩

theorem witness_HostWriteReadsBackMasked : ((0x048, 0xFFFFFFFF) : Nat × Word) ∈ rwRegisters ∧
    (0x2FC = 0x100 + 4 * 127 ∧ 127 < 128) ∧ (0x2F8 % 4 = 0 ∧ 0x2F8 ≠ 0x2FC) := by decide +kernel
theorem witness_ReadOnlyAndReservedIgnoreWrites :
    (∀ a ∈ [0x068, 0x0FC, 0x300, 0x3FC, 0xC00, 0xFFC], a % 4 = 0 ∧ ReservedOffset a) ∧
    (∀ a ∈ [0x0FC + 4, 0x2FC, 0x400, 0xBFC], ¬ ReservedOffset a) ∧ 0x064 ∈ roRegisters := by decide +kernel
/-- The ends of the window, and the last cell of each buffer. -/
theorem witness_HostReadHasNoSideEffect : (∀ a ∈ [0x000, 0xFFC], a % 4 = 0 ∧ a ≤ 0xFFC) ∧
    (127 < 128 ∧ 0x100 + 4 * 127 = 0x2FC) ∧ (255 < 256 ∧ 0x400 + 4 * 255 = 0x7FC ∧ 0x800 + 4 * 255 = 0xBFC) := by
  decide +kernel
theorem witness_StatusWordLayout : (readAt .rx []).Inv ∧ (hostLoad 0x008 (readAt .rx [])).getLsbD 0 = true :=
  ⟨witness_inv_rx.1, by decide +kernel⟩
/-- Both pins present with their DIR bits 1, present with the bits 0, and absent. -/
theorem witness_DirectionPins :
    ((readAt .txWrite []).params.hasTxen = true ∧ (readAt .txWrite []).dir.getLsbD 0 = true) ∧
    ((readAt .txWrite []).params.hasRxen = true ∧ (readAt .txWrite []).dir.getLsbD 1 = true) ∧
    (State.reset.params.hasTxen = true ∧ State.reset.dir.getLsbD 0 = false) ∧
    (State.reset.params.hasRxen = true ∧ State.reset.dir.getLsbD 1 = false) ∧
    (State.resetWith { hasTxen := false, hasRxen := false }).params.hasTxen = false ∧
    (State.resetWith { hasTxen := false, hasRxen := false }).params.hasRxen = false := by decide +kernel
theorem witness_StepKeepsInvariant : ∃ s t : State, s.Inv ∧ step s = .next t :=
  ⟨{ readAt .rx [] with inbox := [.tick] }, _, witness_inv_rx.1, rfl⟩
theorem witness_ParamsNeverChange : ∃ t, step { State.reset with inbox := [.reset] } = .next t := ⟨_, rfl⟩

end Sys2Proof.Tests
end

section
/-! SUPPORT. The STATUS word bit by bit and field by field, and the host's access to it (spec/10_state.md rule R23). -/

namespace Sys2Proof.Machine

@[simp] theorem hostLoad_status (s : State) : hostLoad 0x008 s = statusWord s := rfl

/-- STATUS is read-only (10_state R20, R45). -/
@[simp] theorem hostStore_status (v : Word) (s : State) : hostStore 0x008 v s = s := rfl

/-- A host write the port defines, at an offset other than CMD, is a store (20_memory R63). -/
theorem runEvent_hostWrite {a : Nat} (haligned : a % 4 = 0) (hwindow : a ≤ 0xFFC) (hcmd : a ≠ cmdOffset) (v : Word)
    (s : State) : runEvent (.hostWrite a 4 v) s = .next (hostStore a v s) := by
  have hok : hostAccessOk a 4 = true := by simp [hostAccessOk, haligned, hwindow]
  simp only [runEvent, if_pos hok, if_neg hcmd]

theorem FramerState.code_eq_zero_iff (f : FramerState) : f.code = 0 ↔ f = .idle := by
  cases f <;> decide

@[simp] theorem statusWord_reset : statusWord State.reset = 0 := by decide

/-- Bit `i` of the layout of STATUS: BUSY at 0, STATE from 4, RES from 8, CRES from 16 (10_state R23). -/
def statusBit (s : State) (i : Nat) : Bool :=
  if i = 0 then busy s
  else if i < 4 then false
  else if i < 8 then s.framer.code.getLsbD (i - 4)
  else if i < 16 then s.res.code.getLsbD (i - 8)
  else s.cres.code.getLsbD (i - 16)

/-- The OR of the shifted fields has the layout's bits: a field reads 0 past its width, so no two fields overlap. -/
theorem getLsbD_statusWord (s : State) {i : Nat} (hi : i < 32) : (statusWord s).getLsbD i = statusBit s i := by
  have hstate : 8 ≤ i → s.framer.code.getLsbD (i - 4) = false := fun h => BitVec.getLsbD_of_ge _ _ (by omega)
  have hres : 16 ≤ i → s.res.code.getLsbD (i - 8) = false := fun h => BitVec.getLsbD_of_ge _ _ (by omega)
  simp only [statusWord, statusBit, BitVec.getLsbD_or, BitVec.getLsbD_shiftLeft, BitVec.getLsbD_setWidth]
  split_ifs with h0 h4 h8 h16
  · simp [h0]
  all_goals grind

/-- A field of STATUS has a value when the layout's bits there are the value's. -/
theorem extractLsb'_statusWord (s : State) {start len : Nat} {v : BitVec len} (hlen : start + len ≤ 32)
    (hv : ∀ k < len, statusBit s (start + k) = v.getLsbD k) : (statusWord s).extractLsb' start len = v := by
  refine BitVec.eq_of_getLsbD_eq fun k hk => ?_
  rw [BitVec.getLsbD_extractLsb', getLsbD_statusWord s (by omega), hv k hk]
  simp [hk]

theorem statusWord_busy (s : State) : (statusWord s).getLsbD 0 = busy s := getLsbD_statusWord s (by omega)

theorem statusWord_state (s : State) : (statusWord s).extractLsb' 4 3 = s.framer.code :=
  extractLsb'_statusWord s (by omega) fun k hk => by
    simp (disch := omega) only [statusBit, if_neg, if_pos, Nat.add_sub_cancel_left]

theorem statusWord_res (s : State) : (statusWord s).extractLsb' 8 8 = s.res.code :=
  extractLsb'_statusWord s (by omega) fun k hk => by
    simp (disch := omega) only [statusBit, if_neg, if_pos, Nat.add_sub_cancel_left]

theorem statusWord_cres (s : State) : (statusWord s).extractLsb' 16 8 = s.cres.code :=
  extractLsb'_statusWord s (by omega) fun k hk => by
    simp (disch := omega) only [statusBit, if_neg, Nat.add_sub_cancel_left]

/-- Bits [3:1], 7 and [31:24] are unimplemented. -/
theorem statusWord_unimplemented (s : State) :
    (statusWord s).extractLsb' 1 3 = 0 ∧ (statusWord s).getLsbD 7 = false ∧ (statusWord s).extractLsb' 24 8 = 0 := by
  refine ⟨extractLsb'_statusWord s (by omega) fun k hk => ?_, ?_, extractLsb'_statusWord s (by omega) fun k hk => ?_⟩
  · simp (disch := omega) only [statusBit, if_neg, if_pos, BitVec.ofNat_eq_ofNat, BitVec.getLsbD_zero]
  · rw [getLsbD_statusWord s (by omega)]; simp [statusBit]
  · simp (disch := omega) only [statusBit, if_neg, BitVec.getLsbD_of_ge, BitVec.ofNat_eq_ofNat, BitVec.getLsbD_zero]

end Sys2Proof.Machine
end

section
/-! SUPPORT. The levels of the two direction pins (spec/10_state.md rule R48). -/

namespace Sys2Proof.Machine

theorem txenPin_absent {s : State} (h : s.params.hasTxen = false) : txenPin s = none := by
  simp [txenPin, h]

theorem txenPin_present {s : State} (h : s.params.hasTxen = true) :
    txenPin s = some (if s.dir.getLsbD 0 then Config.txenActiveHigh else !Config.txenActiveHigh) :=
  if_pos h

theorem rxenPin_absent {s : State} (h : s.params.hasRxen = false) : rxenPin s = none := by
  simp [rxenPin, h]

theorem rxenPin_present {s : State} (h : s.params.hasRxen = true) :
    rxenPin s = some (if s.dir.getLsbD 1 then Config.rxenActiveHigh else !Config.rxenActiveHigh) :=
  if_pos h

end Sys2Proof.Machine
end

section
/-! PROOF. The rules of the state: the tick, STATUS and the direction pins (spec/10_state.md rules R52, R23 and R48). -/

open Sys2Proof.Machine

namespace Sys2Proof.Proofs

/-- Settles O38: the three ways a tick goes, with ELAPSED's next value named by its number. -/
theorem tickStep : Obligations.TickStep := by
  intro s
  have hrun : runEvent .tick s = .next (Machine.tickStep s) := rfl
  rw [hrun]
  rcases tickStep_cases s with ⟨hidle, ht⟩ | ⟨hbusy, hbefore, ht⟩ | ⟨hbusy, hreached, ht⟩
  · exact ⟨fun _ => by rw [ht], fun h => absurd hidle h⟩
  all_goals
    refine ⟨fun h => absurd h hbusy, fun _ e he => ?_⟩
    obtain rfl : e = elapsedNext s.elapsed := BitVec.eq_of_toNat_eq (he.trans (elapsedNext_toNat _).symm)
    rw [ht]
  · rw [if_neg (by omega)]
  · rw [if_pos hreached]

/-- Settles O54: each field of STATUS is its code; BUSY agrees with STATE because only IDLE has code 0, and with RES by
the invariant. -/
theorem statusWordLayout : Obligations.StatusWordLayout := by
  refine ⟨statusWord_reset, fun s => ?_⟩
  have hstore : ∀ v, runEvent (.hostWrite 0x008 4 v) s = .next s := fun v => by
    rw [runEvent_hostWrite (by decide) (by decide) (by decide), hostStore_status]
  have hpending : s.Inv → busy s = true → s.res.code = 0x07 := by
    rintro ⟨-, -, hres, -⟩ hbusy
    rw [hres.2 ((busy_iff s).1 hbusy)]
    rfl
  obtain ⟨h1, h7, h24⟩ := statusWord_unimplemented s
  rw [hostLoad_status, statusWord_busy, statusWord_state, statusWord_res, statusWord_cres]
  refine ⟨hstore, ?_, hpending, ?_, h1, ?_, h7, ?_, ?_, h24⟩
  · rw [busy_iff, ne_eq, ne_eq, FramerState.code_eq_zero_iff]
  · rw [Bool.eq_iff_iff, busy_iff, decide_eq_true_iff]
  · cases s.framer <;> rfl
  · cases s.res <;> rfl
  · cases s.cres <;> rfl

/-- Settles O55: each pin's level is its active one or the complement, as its DIR bit says; the polarity stays a constant
with no body. -/
theorem directionPins : Obligations.DirectionPins := by
  intro s
  refine ⟨txenPin_absent, fun h h1 => ?_, fun h h0 => ?_, rxenPin_absent, fun h h1 => ?_, fun h h0 => ?_⟩
  · rw [txenPin_present h, if_pos h1]
  · rw [txenPin_present h, h0, if_neg Bool.false_ne_true]
  · rw [rxenPin_present h, if_pos h1]
  · rw [rxenPin_present h, h0, if_neg Bool.false_ne_true]

end Sys2Proof.Proofs
end

section
/-! SUPPORT. The host window by regions: the registers end at 0x064, and of what lies above them a host write changes
WBUF only (spec/10_state.md rules R20 and R45, spec/20_memory.md rules R60 and R61). -/

namespace Sys2Proof.Machine

/-- A host read above the last register, GRP_KIND, is a buffer's (10_state R20). -/
theorem hostLoad_above_registers {a : Nat} (h : 0x064 < a) (s : State) : hostLoad a s = bufferLoad a s := by
  unfold hostLoad
  split
  rotate_right
  · rfl
  all_goals omega

/-- A host write above the last RW register, GRP_UNIT, is a buffer's (10_state R20). -/
theorem hostStore_above_registers {a : Nat} (h : 0x060 < a) (v : Word) (s : State) :
    hostStore a v s = bufferStore a v s := by
  unfold hostStore
  split
  rotate_right
  · rfl
  all_goals omega

/-- WBUF is the only buffer a host write changes (10_state R42 to R45). -/
theorem bufferStore_outside_wbuf {a : Nat} (h : ¬ (0x100 ≤ a ∧ a ≤ 0x2FC)) (v : Word) (s : State) :
    bufferStore a v s = s :=
  if_neg h

theorem bufferLoad_reserved {a : Nat} (h : ReservedOffset a) (s : State) : bufferLoad a s = 0 := by
  unfold bufferLoad
  rw [if_neg (by omega), if_neg (by omega), if_neg (by omega)]

theorem hostLoad_reserved {a : Nat} (h : ReservedOffset a) (s : State) : hostLoad a s = 0 := by
  rw [hostLoad_above_registers (by omega), bufferLoad_reserved h]

theorem hostStore_roRegister {a : Nat} (h : a ∈ roRegisters) (v : Word) (s : State) : hostStore a v s = s := by
  simp only [roRegisters, List.mem_cons, List.not_mem_nil, or_false] at h
  rcases h with rfl | rfl | rfl | rfl | rfl | rfl | rfl | rfl | rfl <;> rfl

/-- Above the registers a host write outside WBUF changes no state (10_state R45, 20_memory R61). -/
theorem hostStore_outside_wbuf {a : Nat} (hregs : 0x060 < a) (hwbuf : ¬ (0x100 ≤ a ∧ a ≤ 0x2FC)) (v : Word)
    (s : State) : hostStore a v s = s := by
  rw [hostStore_above_registers hregs, bufferStore_outside_wbuf hwbuf]

/-- CMD is write-only, so no RO register stands at its offset (10_state R20, R22). -/
theorem roRegister_bounds {a : Nat} (h : a ∈ roRegisters) : a ≤ 0xFFC ∧ a ≠ cmdOffset := by
  revert a
  decide

end Sys2Proof.Machine
end

section
/-! PROOF. The host window's offsets that ignore writes (spec/20_memory.md rule R61). -/

open Sys2Proof.Machine

namespace Sys2Proof.Proofs

/-- Settles O52: a RO register has no store of its own, and TXBUF, RXBUF and the reserved offsets lie above the registers
and outside WBUF. -/
theorem readOnlyAndReservedIgnoreWrites : Obligations.ReadOnlyAndReservedIgnoreWrites := by
  intro a v s haligned
  refine ⟨fun h => ?_, fun h => hostLoad_reserved h s⟩
  rcases h with hro | habove
  · obtain ⟨hwindow, hcmd⟩ := roRegister_bounds hro
    rw [runEvent_hostWrite haligned hwindow hcmd, hostStore_roRegister hro]
  · have hcmd : a ≠ cmdOffset := by unfold cmdOffset; omega
    rw [runEvent_hostWrite haligned (by omega) hcmd, hostStore_outside_wbuf (by omega) (by omega)]

end Sys2Proof.Proofs
end

section
/-! SUPPORT. The legal command words: the fields of one are those of a command, and a table row's match and mask pin
exactly the fields its opcode does not leave free (spec/30_encoding.md rules R90 to R93). -/

namespace Sys2Proof

/-- A command is read back from its fields. -/
theorem decodeOpcode_fields (i : Instr) : decodeOpcode i.fields = .ok i := by
  cases i <;> rfl

/-- A word decodes to a command exactly when it has the command's fields. -/
theorem decode_eq_ok_iff {w : Word} {i : Instr} : decode w = .ok i ↔ i.fields = fieldsOfWord w := by
  refine ⟨fields_of_decode, fun h => ?_⟩
  have hreserved : ¬ (i.fields.resLow ≠ 0 ∨ i.fields.resHigh ≠ 0) := by simp [Instr.fields]
  unfold decode
  rw [← h, if_neg hreserved, decodeOpcode_fields]

theorem Instr.fields_wf (i : Instr) : i.fields.wf = true := by
  cases i with
  | crcByte imm => exact Bool.or_true _
  | setBit de | setUns de | setSgn de | setTemp de | viewSet de => cases de <;> rfl
  | _ => rfl

namespace CommandFields

theorem reservedZero_iff (f : CommandFields) : f.reservedZero = true ↔ f.resLow = 0 ∧ f.resHigh = 0 := by
  simp [reservedZero]

theorem opcodeAssigned_iff (f : CommandFields) : f.opcodeAssigned = true ↔
    f.opc.toNat ≤ 0x02 ∨ (0x10 ≤ f.opc.toNat ∧ f.opc.toNat ≤ 0x1A) ∨ (0x20 ≤ f.opc.toNat ∧ f.opc.toNat ≤ 0x22) := by
  simp [opcodeAssigned, or_assoc]

theorem dirtyEnableAllowed_iff (f : CommandFields) :
    f.dirtyEnableAllowed = true ↔ (f.de = true → f.opc.toNat ∈ [0x11, 0x13, 0x15, 0x17, 0x19]) := by
  cases h : f.de <;> simp [dirtyEnableAllowed, h]

theorem immediateAllowed_iff (f : CommandFields) :
    f.immediateAllowed = true ↔ (f.imm ≠ 0 → f.opc.toNat = 0x02) := by
  simp [immediateAllowed, or_iff_not_imp_left]

theorem wf_iff (f : CommandFields) : f.wf = true ↔
    f.reservedZero = true ∧ f.opcodeAssigned = true ∧ f.dirtyEnableAllowed = true ∧ f.immediateAllowed = true := by
  simp [wf, and_assoc]

/-- The opcode map has a command for all legal fields. -/
theorem exists_decodeOpcode_of_wf {f : CommandFields} (h : f.wf = true) : ∃ i, decodeOpcode f = .ok i := by
  obtain ⟨-, hopc, hde, himm⟩ := (wf_iff f).1 h
  rw [opcodeAssigned_iff] at hopc
  rw [dirtyEnableAllowed_iff] at hde
  rw [immediateAllowed_iff] at himm
  unfold decodeOpcode
  split
  rotate_right
  · -- no arm of the map: the opcode is not an assigned one
    grind
  all_goals simp_all [decodePlain, decodeWithDirty, decodeWithImm]

/-- The legal fields are exactly those of the commands. -/
theorem exists_fields_eq_iff_wf (f : CommandFields) : (∃ i : Instr, i.fields = f) ↔ f.wf = true := by
  constructor
  · rintro ⟨i, rfl⟩
    exact i.fields_wf
  · intro h
    obtain ⟨i, hi⟩ := exists_decodeOpcode_of_wf h
    obtain ⟨hlow, hhigh⟩ := (reservedZero_iff f).1 ((wf_iff f).1 h).1
    exact ⟨i, fields_of_decodeOpcode hi hlow hhigh⟩

end CommandFields

/-- A word is illegal exactly when its fields fail one of the four checks. -/
theorem decode_error_iff (w : Word) : (∃ r, decode w = .error r) ↔ ¬ (fieldsOfWord w).wf = true := by
  simp only [← CommandFields.exists_fields_eq_iff_wf, ← decode_eq_ok_iff]
  cases decode w <;> simp

/-- The failures of the four checks, each as the case of R93 it stands for. -/
theorem CommandFields.not_wf_iff (f : CommandFields) : ¬ f.wf = true ↔
    ((0x03 ≤ f.opc.toNat ∧ f.opc.toNat ≤ 0x0F) ∨ (0x1B ≤ f.opc.toNat ∧ f.opc.toNat ≤ 0x1F) ∨ 0x23 ≤ f.opc.toNat) ∨
      (f.resLow ≠ 0 ∨ f.resHigh ≠ 0) ∨
      (f.de = true ∧ f.opc.toNat ∉ [0x11, 0x13, 0x15, 0x17, 0x19]) ∨
      (f.imm ≠ 0 ∧ f.opc.toNat ≠ 0x02) := by
  have hopc : ¬ f.opcodeAssigned = true ↔ (0x03 ≤ f.opc.toNat ∧ f.opc.toNat ≤ 0x0F) ∨
      (0x1B ≤ f.opc.toNat ∧ f.opc.toNat ≤ 0x1F) ∨ 0x23 ≤ f.opc.toNat := by
    rw [opcodeAssigned_iff]
    omega
  rw [← hopc, wf_iff, reservedZero_iff, dirtyEnableAllowed_iff, immediateAllowed_iff]
  tauto

theorem fieldsOfWord_injective : Function.Injective fieldsOfWord :=
  Function.LeftInverse.injective wordOfFields_fieldsOfWord

/-- The fields of a masked word are the fields masked. -/
theorem fieldsOfWord_and (w m : Word) : fieldsOfWord (w &&& m) =
    ⟨(fieldsOfWord w).opc &&& (fieldsOfWord m).opc, (fieldsOfWord w).de && (fieldsOfWord m).de,
      (fieldsOfWord w).resLow &&& (fieldsOfWord m).resLow, (fieldsOfWord w).imm &&& (fieldsOfWord m).imm,
      (fieldsOfWord w).resHigh &&& (fieldsOfWord m).resHigh⟩ := by
  simp [fieldsOfWord, BitVec.extractLsb'_and]

/-- The fields of a row's `match`: its opcode, and nothing else (30_encoding R92). -/
def rowPattern (opc : BitVec 8) : CommandFields := ⟨opc, false, 0, 0, 0⟩

/-- The fields of a row's `mask`: every bit but DE and IMM8 where the opcode allows them (30_encoding R90, R92). -/
def rowMask (opc : BitVec 8) : CommandFields where
  opc     := 0xFF
  de      := opc.toNat ∉ [0x11, 0x13, 0x15, 0x17, 0x19]
  resLow  := 0x7F
  imm     := if opc.toNat = 0x02 then 0 else 0xFF
  resHigh := 0xFF

/-- The mask keeps DE exactly where it must be 0. -/
theorem and_rowMask_de_eq_false_iff (opc : BitVec 8) (de : Bool) :
    (de && (rowMask opc).de) = false ↔ (de = true → opc.toNat ∈ [0x11, 0x13, 0x15, 0x17, 0x19]) := by
  simp only [rowMask, Bool.and_eq_false_imp, decide_eq_false_iff_not, not_not]

/-- The mask keeps IMM8 exactly where it must be 0. -/
theorem and_rowMask_imm_eq_zero_iff (opc : BitVec 8) (imm : Byte) :
    imm &&& (rowMask opc).imm = 0 ↔ (imm ≠ 0 → opc.toNat = 0x02) := by
  by_cases h : opc.toNat = 0x02
  · simp [rowMask, h]
  · have hmask : imm &&& (rowMask opc).imm = imm := by rw [rowMask, if_neg h]; exact BitVec.and_allOnes
    simp [hmask, h]

/-- A word matches the row of an assigned opcode exactly when it is legal and has that opcode. -/
theorem and_rowMask_eq_iff {opc : BitVec 8} (hopc : (rowPattern opc).opcodeAssigned = true) (w : Word) :
    w &&& wordOfFields (rowMask opc) = wordOfFields (rowPattern opc) ↔
      (fieldsOfWord w).wf = true ∧ (fieldsOfWord w).opc = opc := by
  rw [← fieldsOfWord_injective.eq_iff, fieldsOfWord_and, fieldsOfWord_wordOfFields, fieldsOfWord_wordOfFields]
  generalize fieldsOfWord w = f
  have hmaskOpc : f.opc &&& (rowMask opc).opc = f.opc := BitVec.and_allOnes
  have hmaskLow : f.resLow &&& (rowMask opc).resLow = f.resLow := BitVec.and_allOnes
  have hmaskHigh : f.resHigh &&& (rowMask opc).resHigh = f.resHigh := BitVec.and_allOnes
  rw [rowPattern, CommandFields.mk.injEq, hmaskOpc, hmaskLow, hmaskHigh, and_rowMask_de_eq_false_iff,
    and_rowMask_imm_eq_zero_iff, CommandFields.wf_iff, CommandFields.reservedZero_iff,
    CommandFields.dirtyEnableAllowed_iff, CommandFields.immediateAllowed_iff]
  constructor
  · rintro ⟨rfl, hde, hlow, himm, hhigh⟩
    exact ⟨⟨⟨hlow, hhigh⟩, hopc, hde, himm⟩, rfl⟩
  · rintro ⟨⟨⟨hlow, hhigh⟩, -, hde, himm⟩, rfl⟩
    exact ⟨rfl, hde, hlow, himm, hhigh⟩

end Sys2Proof

namespace Sys2Proof.Machine

/-- Every row of the table is the row of an assigned opcode. -/
theorem opcodeTable_rows : ∀ r ∈ opcodeTable, (rowPattern (r.pattern.setWidth 8)).opcodeAssigned = true ∧
    r.pattern = wordOfFields (rowPattern (r.pattern.setWidth 8)) ∧
    r.mask = wordOfFields (rowMask (r.pattern.setWidth 8)) := by decide

/-- A word matches a row exactly when it is legal and has the row's opcode. -/
theorem and_mask_eq_pattern_iff {r : OpcodeRow} (hr : r ∈ opcodeTable) (w : Word) :
    w &&& r.mask = r.pattern ↔ (fieldsOfWord w).wf = true ∧ (fieldsOfWord w).opc = r.pattern.setWidth 8 := by
  obtain ⟨hopc, hpattern, hmask⟩ := opcodeTable_rows r hr
  rw [← and_rowMask_eq_iff hopc, ← hpattern, ← hmask]

/-- A mnemonic of the table names the command with the row's opcode. -/
theorem mnemonicOf_eq_iff (i : Instr) :
    ∀ r ∈ opcodeTable, mnemonicOf i = r.mnemonic ↔ i.opcode = r.pattern.setWidth 8 := by
  cases i <;> simp [opcodeTable, mnemonicOf, Instr.opcode]

/-- A word decodes to a row's command exactly when it is legal and has the row's opcode. -/
theorem exists_decode_mnemonic_iff {r : OpcodeRow} (hr : r ∈ opcodeTable) (w : Word) :
    (∃ i, decode w = .ok i ∧ mnemonicOf i = r.mnemonic) ↔
      (fieldsOfWord w).wf = true ∧ (fieldsOfWord w).opc = r.pattern.setWidth 8 := by
  rw [← CommandFields.exists_fields_eq_iff_wf]
  constructor
  · rintro ⟨i, hi, hm⟩
    have hf := decode_eq_ok_iff.1 hi
    exact ⟨⟨i, hf⟩, hf ▸ (mnemonicOf_eq_iff i r hr).1 hm⟩
  · rintro ⟨⟨i, hf⟩, ho⟩
    exact ⟨i, decode_eq_ok_iff.2 hf, (mnemonicOf_eq_iff i r hr).2 (by rw [← ho, ← hf]; rfl)⟩

/-- No two rows of the table have the same opcode. -/
theorem opcodeTable_opcode_injective {r₁ r₂ : OpcodeRow} (h₁ : r₁ ∈ opcodeTable) (h₂ : r₂ ∈ opcodeTable)
    (h : r₁.pattern.setWidth 8 = r₂.pattern.setWidth 8) : r₁ = r₂ :=
  List.inj_on_of_nodup_map (by decide : (opcodeTable.map fun r => r.pattern.setWidth 8).Nodup) h₁ h₂ h

/-- A CMD write of an illegal word (40_control R123). -/
theorem runEvent_cmdWrite_illegal {w : Word} {r : IllegalWord} (h : decode w = .error r) (s : State) :
    runEvent (.hostWrite 0x004 4 w) s = .next { s with cres := .illegal } := by
  have hrun : runEvent (.hostWrite 0x004 4 w) s = runCommand w s := rfl
  rw [hrun, runCommand, h]
  rfl

end Sys2Proof.Machine
end

section
/-! PROOF. The opcode table and the illegal words (spec/30_encoding.md rules R92 and R93). -/

open Sys2Proof.Machine

namespace Sys2Proof.Proofs

/-- Settles O3: matching a row and decoding to its command are the same condition on the word's fields, and the rows'
opcodes differ. -/
theorem tableRowDecodes : Obligations.TableRowDecodes := by
  refine ⟨fun r hr w => ?_, fun w i hi => ?_, fun w r₁ h₁ r₂ h₂ hw₁ hw₂ => ?_⟩
  · rw [exists_decode_mnemonic_iff hr, and_mask_eq_pattern_iff hr]
  · have hf := fields_of_decode hi
    exact ⟨congrArg CommandFields.de hf, congrArg CommandFields.imm hf⟩
  · obtain ⟨-, ho₁⟩ := (and_mask_eq_pattern_iff h₁ w).1 hw₁
    obtain ⟨-, ho₂⟩ := (and_mask_eq_pattern_iff h₂ w).1 hw₂
    exact opcodeTable_opcode_injective h₁ h₂ (ho₁.symm.trans ho₂)

/-- Settles O4: a word is illegal when its fields fail one of the four checks, and an illegal word reaches no command. -/
theorem illegalWordOnlySetsCres : Obligations.IllegalWordOnlySetsCres := fun w =>
  ⟨(decode_error_iff w).trans (fieldsOfWord w).not_wf_iff, fun ⟨_, h⟩ s => runEvent_cmdWrite_illegal h s⟩

end Sys2Proof.Proofs
end

section
/-! SUPPORT. What acceptance makes of the state, and the write request's data bytes (spec/44_rtu.md rules R223 and
R231). -/

namespace Sys2Proof.Machine

/-- An RTU command in IDLE with legal arguments is accepted (44_rtu R230, R231). -/
theorem rtuCommand_of_legal {op : RtuOp} {s : State} (fc : BitVec 8) (hidle : s.framer = .idle)
    (hargs : ArgumentsLegal s (maxCount s.params op)) : rtuCommand op fc s = accept op fc { s with cres := .ok } := by
  rcases rtuCommand_cases op fc s with ⟨hbusy, -⟩ | ⟨-, hbad, -⟩ | ⟨-, -, h⟩
  · exact absurd hidle hbusy
  · exact absurd hargs hbad
  · exact h

/-- RXEN is bit 1 and TXEN bit 0, each where the output exists (10_state R31). -/
theorem dirAsserted_eq (p : Params) :
    dirAsserted p = (if p.hasRxen then 2 else 0) + (if p.hasTxen then 1 else 0) := by
  cases hr : p.hasRxen <;> cases ht : p.hasTxen <;> simp only [dirAsserted, hr, ht] <;> rfl

/-- The whole state after an accepted command whose frame has `n` bytes and fits in TXBUF: the frame is offered and TXBUF
keeps the bytes beyond it (44_rtu R231). -/
theorem rtuCommand_accepted {op : RtuOp} {s : State} {fc : BitVec 8} {n : Nat} (hidle : s.framer = .idle)
    (hargs : ArgumentsLegal s (maxCount s.params op)) (hfits : n ≤ 256)
    (hlen : (requestFrame (loadLatches op fc s) s.wbuf).length = n) :
    rtuCommand op fc s = { s with
      cres    := .ok
      res     := .pending
      framer  := .txWrite
      lat     := loadLatches op fc s
      txbuf   := (rtuCommand op fc s).txbuf
      txlen   := BitVec.ofNat 9 n
      explen  := BitVec.ofNat 9 (expectedLength op s.count.toNat)
      rxlen   := 0
      elapsed := 0
      dir     := (if s.params.hasRxen then 2 else 0) + (if s.params.hasTxen then 1 else 0) } ∧
    offeredFrame (rtuCommand op fc s) = some (requestFrame (loadLatches op fc s) s.wbuf) ∧
    ∀ k, n ≤ k → Memory.read (rtuCommand op fc s).txbuf k = Memory.read s.txbuf k := by
  subst hlen
  rw [rtuCommand_of_legal fc hidle hargs, ← dirAsserted_eq]
  exact ⟨rfl, accept_frame op fc { s with cres := .ok } hfits⟩

/-- The data bytes of a window of WBUF, word by word, high byte first (20_memory R66, 44_rtu R223). -/
theorem dataBytes_readList (m : Memory 16) (x n : Nat) : dataBytes (Memory.readList m x n) =
    (List.range n).flatMap fun k => [highByte (Memory.read m (x + k)), lowByte (Memory.read m (x + k))] := by
  have hwords : Memory.readList m x n = (List.range n).map fun k => Memory.read m (x + k) :=
    List.ext_getElem (by simp) fun k _ _ => by simp
  rw [hwords, dataBytes, List.flatMap_map]
  rfl

end Sys2Proof.Machine
end

section
/-! PROOF. The accepted read and write requests (spec/30_encoding.md rules R97 and R99). -/

open Sys2Proof.Machine

namespace Sys2Proof.Proofs

/-- Settles O35: both reads are one command, with the function code as its only difference. -/
theorem readRequestAccepted : Obligations.ReadRequestAccepted := by
  intro s hidle hargs p hp
  have hexec : exec p.1 s = .next (rtuCommand .read p.2 s) := by
    simp only [List.mem_cons, List.not_mem_nil, or_false] at hp
    rcases hp with rfl | rfl <;> rfl
  exact ⟨_, hexec, rtuCommand_accepted (n := 8) hidle hargs (by decide) (length_requestFrame _ _)⟩

/-- Settles O36: the frame of a legal COUNT fits in TXBUF, and its data bytes are those of the window's words. -/
theorem writeRequestAccepted : Obligations.WriteRequestAccepted := by
  intro s hparams hidle hargs
  have hfits : 9 + 2 * s.count.toNat ≤ 256 := by
    obtain ⟨-, ⟨-, hmax⟩, -⟩ := hparams
    obtain ⟨-, hcount, -⟩ := hargs
    omega
  obtain ⟨hstate, hoffered, hkept⟩ := rtuCommand_accepted (op := .write) (fc := 0x10) hidle hargs hfits
    (length_requestFrame _ _)
  refine ⟨_, rfl, hstate, ?_, hkept⟩
  rw [hoffered, ← dataBytes_readList]
  rfl

end Sys2Proof.Proofs
end

section
/-! SUPPORT. A command has one word, its encoding (spec/30_encoding.md rule R92). -/

namespace Sys2Proof

/-- A word decodes to a command exactly when it is the command's word. -/
theorem decode_eq_ok_iff_eq_encode {w : Word} {i : Instr} : decode w = .ok i ↔ w = encode i := by
  rw [decode_eq_ok_iff, ← fieldsOfWord_wordOfFields i.fields, fieldsOfWord_injective.eq_iff, eq_comm]
  rfl

end Sys2Proof
end

section
/-! SUPPORT. The answer of each view and group command, one equation per case (spec/42_views.md rules R175, R176 and
R190). -/

namespace Sys2Proof.Machine

theorem execViewGet_of_invalid {s : State} (h : fieldRom s.fldSel = none) : execViewGet s = .next (commandErrArg s) := by
  rw [execViewGet, h]

theorem execViewGet_of_row {s : State} {d : FieldDesc} (h : fieldRom s.fldSel = some d) :
    execViewGet s = .next { commandOk s with
      fldRes := if viewInRange d s then decodeEnc d.enc (viewField d s) d.len else 0 } := by
  rw [execViewGet, h]

theorem execViewSet_of_invalid {s : State} (de : Bool) (h : fieldRom s.fldSel = none) :
    execViewSet de s = .next (commandErrArg s) := by
  rw [execViewSet, h]

theorem execViewSet_of_inRange {s : State} {d : FieldDesc} (de : Bool) (h : fieldRom s.fldSel = some d)
    (hrange : viewInRange d s = true) : execViewSet de s = .next (viewStore de d s) := by
  rw [execViewSet, h]
  exact congrArg _ (if_pos hrange)

theorem execViewSet_of_outOfRange {s : State} {d : FieldDesc} (de : Bool) (h : fieldRom s.fldSel = some d)
    (hrange : ¬ viewInRange d s = true) : execViewSet de s = .next (commandOk s) := by
  rw [execViewSet, h]
  exact congrArg _ (if_neg hrange)

/-- GRP_SETUP is rejected for a GRP_SEL that names no group, and for a unit above 63 of a group that is per unit
(42_views R190). -/
theorem execGrpSetup_of_invalid {s : State}
    (h : ∀ g, groupOfSel s.grpSel = some g → g.perUnit && 63 < s.grpUnit.toNat) :
    execGrpSetup s = .next (commandErrArg s) := by
  unfold execGrpSetup
  cases hgroup : groupOfSel s.grpSel with
  | none => rfl
  | some g => exact if_pos (h g hgroup)

theorem execGrpSetup_of_group {s : State} {g : Group} (h : groupOfSel s.grpSel = some g)
    (hunit : ¬ (g.perUnit && 63 < s.grpUnit.toNat)) :
    execGrpSetup s = .next { commandOk s with
      addr    := BitVec.ofNat 16 (g.address s.grpUnit.toNat)
      count   := BitVec.ofNat 8 g.words
      grpKind := g.space == .holding } := by
  unfold execGrpSetup
  rw [h]
  exact if_neg hunit

end Sys2Proof.Machine
end

section
/-! SUPPORT. What a command makes of the framer's state: an RTU command is dropped unless it is IDLE, and no other command
reads or changes it (spec/40_control.md rule R122). -/

namespace Sys2Proof.Machine

/-- Every RTU command is dropped while a transaction runs (40_control R122). -/
theorem exec_rtu_busy {i : Instr} {s : State} (hi : i ∈ rtuCommands) (hbusy : s.framer ≠ .idle) :
    exec i s = .next { s with cres := .busyRej } := by
  have hdropped : ∀ op fc, rtuCommand op fc s = { s with cres := .busyRej } := fun op fc => by
    rcases rtuCommand_cases op fc s with ⟨-, h⟩ | ⟨hidle, -⟩ | ⟨hidle, -⟩
    · exact h
    · exact absurd hidle hbusy
    · exact absurd hidle hbusy
  obtain ⟨t, ht⟩ := exec_next i s
  rcases exec_rtu hi ht with ⟨-, rfl⟩ | ⟨-, rfl⟩ | ⟨-, rfl⟩ <;> rw [ht, hdropped]

theorem codecSet_with_framer (de accepted : Bool) (L bits : Nat) (req old : Int) (s : State) (f : FramerState) :
    codecSet de accepted L bits req old { s with framer := f } =
      { codecSet de accepted L bits req old s with framer := f } := by
  unfold codecSet
  split <;> rfl

theorem execViewGet_with_framer {s t : State} (f : FramerState) (h : execViewGet s = .next t) :
    execViewGet { s with framer := f } = .next { t with framer := f } := by
  cases hrow : fieldRom s.fldSel with
  | none => cases (execViewGet_of_invalid hrow).symm.trans h; exact execViewGet_of_invalid hrow
  | some d => cases (execViewGet_of_row hrow).symm.trans h; exact execViewGet_of_row hrow

theorem execViewSet_with_framer {de : Bool} {s t : State} (f : FramerState) (h : execViewSet de s = .next t) :
    execViewSet de { s with framer := f } = .next { t with framer := f } := by
  cases hrow : fieldRom s.fldSel with
  | none => cases (execViewSet_of_invalid de hrow).symm.trans h; exact execViewSet_of_invalid de hrow
  | some d =>
    by_cases hrange : viewInRange d s = true
    · cases (execViewSet_of_inRange de hrow hrange).symm.trans h
      exact execViewSet_of_inRange de hrow hrange
    · cases (execViewSet_of_outOfRange de hrow hrange).symm.trans h
      exact execViewSet_of_outOfRange de hrow hrange

theorem execGrpSetup_with_framer {s t : State} (f : FramerState) (h : execGrpSetup s = .next t) :
    execGrpSetup { s with framer := f } = .next { t with framer := f } := by
  by_cases hinvalid : ∀ g, groupOfSel s.grpSel = some g → g.perUnit && 63 < s.grpUnit.toNat
  · cases (execGrpSetup_of_invalid hinvalid).symm.trans h
    exact execGrpSetup_of_invalid hinvalid
  · push Not at hinvalid
    obtain ⟨g, hgroup, hunit⟩ := hinvalid
    cases (execGrpSetup_of_group hgroup hunit).symm.trans h
    exact execGrpSetup_of_group hgroup hunit

/-- A command other than the RTU commands neither reads nor changes the framer's state. -/
theorem exec_with_framer {i : Instr} {s t : State} (f : FramerState) (hi : i ∉ rtuCommands) (h : exec i s = .next t) :
    exec i { s with framer := f } = .next { t with framer := f } := by
  cases i with
  | nop | crcInit | crcByte | getBit | getUns | getSgn | getTemp => cases h; rfl
  | setBit | setUns | setSgn | setTemp => cases h; exact congrArg _ (codecSet_with_framer ..)
  | viewGet => exact execViewGet_with_framer f h
  | viewSet => exact execViewSet_with_framer f h
  | grpSetup => exact execGrpSetup_with_framer f h
  | rtuRdHold | rtuRdInput | rtuWrMulti => simp [rtuCommands] at hi

end Sys2Proof.Machine
end

section
/-! PROOF. Busy rejection, NOP and CRC_INIT (spec/40_control.md rules R122 and R125, spec/43_crc.md rule R203). -/

open Sys2Proof Sys2Proof.Machine

namespace Sys2Proof.Proofs

/-- Settles O10: the three RTU commands share one busy check, and no other command reads the framer's state. -/
theorem busyRejection : Obligations.BusyRejection :=
  ⟨fun _ hi _ hbusy => exec_rtu_busy hi hbusy, fun _ _ _ f hi h => exec_with_framer f hi h⟩

/-- Settles O12: a command's word is its encoding, which is 0 for NOP and 1 for CRC_INIT. -/
theorem nopAndCrcInit : Obligations.NopAndCrcInit := by
  have hnop : encode .nop = 0x00000000 := by decide
  have hinit : encode .crcInit = 0x00000001 := by decide
  refine ⟨fun w => ⟨?_, ?_⟩, fun s => ⟨rfl, rfl⟩⟩
  · rw [decode_eq_ok_iff_eq_encode, hnop]
  · rw [decode_eq_ok_iff_eq_encode, hinit]

end Sys2Proof.Proofs
end

section
/-! SUPPORT. The field codec in the terms claims use: when an access is accepted, what a field means, and one pair of
operations, a get and a set of a sign-magnitude field, for SET_SGN, SET_TEMP, GET_SGN and GET_TEMP (spec/41_codec.md
rules R131, R132, R137 to R148). -/

namespace Sys2Proof.Machine

/-! When an access is accepted -/

theorem unsignedAccepted_iff (s : State) (L : Nat) :
    (unsignedLength L && codecInRange s L) = true ↔ (1 ≤ L ∧ L ≤ 32) ∧ CodecFits s L := by
  rw [Bool.and_eq_true, unsignedLength_iff, codecInRange_iff]

theorem signedAccepted_iff (s : State) (L : Nat) :
    (signedLength L && codecInRange s L) = true ↔ (2 ≤ L ∧ L ≤ 32) ∧ CodecFits s L := by
  rw [Bool.and_eq_true, signedLength_iff, codecInRange_iff]

/-! What a field means -/

theorem fieldSum_one (m : Memory 16) (start : Nat) : fieldSum m start 1 = (wbit m start).toNat := by
  simp [fieldSum]

theorem fieldSum_of_clear {m : Memory 16} (h : ∀ i, wbit m i = false) (start L : Nat) : fieldSum m start L = 0 := by
  simp [fieldSum, h]

theorem smDecode_codecField (s : State) {L : Nat} (hL : 2 ≤ L) :
    smDecode (codecField s L) L = signedSum s.wbuf (codecStart s) L :=
  smDecode_getf _ _ _ hL

/-! What a set leaves -/

/-- A set moves no field of the codec window: the next access is accepted exactly when it was before. -/
theorem codecFits_codecSet (de accepted : Bool) (L bits : Nat) (req old : Int) (s : State) (L' : Nat) :
    CodecFits (codecSet de accepted L bits req old s) L' ↔ CodecFits s L' := by
  rw [codecSet_frame]

theorem codecSet_fldLen (de accepted : Bool) (L bits : Nat) (req old : Int) (s : State) :
    (codecSet de accepted L bits req old s).fldLen = s.fldLen := by
  rw [codecSet_frame]

theorem codecSet_wbuf (de accepted : Bool) (L bits : Nat) (req old : Int) (s : State) :
    (codecSet de accepted L bits req old s).wbuf =
      if accepted then setf s.wbuf s.fldBase.toNat s.fldOff.toNat bits L else s.wbuf := by
  unfold codecSet
  split <;> rfl

/-- An accepted set leaves in its field the bits it stores. -/
theorem codecField_codecSet {accepted : Bool} {L bits : Nat} {s : State} (de : Bool) (req old : Int)
    (ha : accepted = true) (hfits : CodecFits s L) (hbits : bits < 2 ^ L) :
    codecField (codecSet de accepted L bits req old s) L = bits := by
  obtain ⟨hwindow, -, hend⟩ := hfits
  rw [codecSet, if_pos ha]
  exact getf_setf _ (by omega) hbits

/-! The unsigned primitives -/

theorem fldRes_getUns {s u : State} {L : Nat} (hL : s.fldLen.toNat = L) (hlen : 1 ≤ L ∧ L ≤ 32) (hfits : CodecFits s L)
    (hget : exec .getUns s = .next u) : u.fldRes = BitVec.ofNat 32 (codecField s L) := by
  subst hL
  cases hget
  exact if_pos ((unsignedAccepted_iff _ _).2 ⟨hlen, hfits⟩)

/-- SET_UNS then GET_UNS answers the low L bits of FLD_VAL (41_codec R138). -/
theorem fldRes_getUns_setUns {de : Bool} {s t u : State} (hlen : 1 ≤ s.fldLen.toNat ∧ s.fldLen.toNat ≤ 32)
    (hfits : CodecFits s s.fldLen.toNat) (hset : exec (.setUns de) s = .next t) (hget : exec .getUns t = .next u) :
    u.fldRes = BitVec.ofNat 32 (s.fldVal.toNat % 2 ^ s.fldLen.toNat) := by
  cases hset
  rw [fldRes_getUns (congrArg _ (codecSet_fldLen ..)) hlen ((codecFits_codecSet ..).2 hfits) hget]
  exact congrArg _ (codecField_codecSet de _ _ ((unsignedAccepted_iff _ _).2 ⟨hlen, hfits⟩) hfits
    (Nat.mod_lt _ (by positivity)))

/-! The sign-magnitude primitives -/

/-- The effect of GET_SGN and GET_TEMP (41_codec R141, R146). -/
def signedGet (s : State) : State :=
  codecGet (signedLength s.fldLen.toNat && codecInRange s s.fldLen.toNat)
    (u32 (smDecode (codecField s s.fldLen.toNat) s.fldLen.toNat)) s

/-- The effect of SET_SGN and SET_TEMP, for the integer `v` they store (41_codec R142, R147). -/
def signedSet (de : Bool) (v : Int) (s : State) : State :=
  codecSet de (signedLength s.fldLen.toNat && codecInRange s s.fldLen.toNat) s.fldLen.toNat
    (smEncode v s.fldLen.toNat) v (smDecode (codecField s s.fldLen.toNat) s.fldLen.toNat) s

theorem exec_getSgn (s : State) : exec .getSgn s = .next (signedGet s) := rfl

theorem exec_getTemp (s : State) : exec .getTemp s = .next (signedGet s) := rfl

theorem exec_setSgn (de : Bool) (s : State) : exec (.setSgn de) s = .next (signedSet de s.fldVal.toInt s) := rfl

theorem exec_setTemp (de : Bool) (s : State) :
    exec (.setTemp de) s = .next (signedSet de (tenths s.fldVal.toInt) s) := by
  rw [← rhaz10_eq_tenths]
  rfl

theorem signedGet_eq (s : State) : signedGet s = { s with
    cres   := .ok
    fldRes := if (2 ≤ s.fldLen.toNat ∧ s.fldLen.toNat ≤ 32) ∧ CodecFits s s.fldLen.toNat
              then BitVec.ofInt 32 (signedSum s.wbuf (codecStart s) s.fldLen.toNat) else 0 } := by
  rw [signedGet, codecGet_eq _ _ (signedAccepted_iff _ _)]
  by_cases h : (2 ≤ s.fldLen.toNat ∧ s.fldLen.toNat ≤ 32) ∧ CodecFits s s.fldLen.toNat
  · have hlen : 2 ≤ s.fldLen.toNat := by omega
    rw [if_pos h, if_pos h, smDecode_codecField s hlen, u32]
  · rw [if_neg h, if_neg h]

theorem fldRes_signedGet {s : State} {L : Nat} (hL : s.fldLen.toNat = L) (hlen : 2 ≤ L ∧ L ≤ 32)
    (hfits : CodecFits s L) : (signedGet s).fldRes = u32 (smDecode (codecField s L) L) := by
  subst hL
  exact if_pos ((signedAccepted_iff _ _).2 ⟨hlen, hfits⟩)

theorem signedSet_effect (de : Bool) (v : Int) (s : State) :
    CodecSetEffect de ((2 ≤ s.fldLen.toNat ∧ s.fldLen.toNat ≤ 32) ∧ CodecFits s s.fldLen.toNat) (codecStart s)
      s.fldLen.toNat (signedBit v s.fldLen.toNat) (v ≠ signedSum s.wbuf (codecStart s) s.fldLen.toNat) s
      (signedSet de v s) := by
  refine codecSet_effect (signedAccepted_iff _ _) And.right ?_ ?_
  · rintro ⟨⟨hlen, -⟩, -⟩ k hk
    exact testBit_smEncode v (by omega) hk
  · rintro ⟨⟨hlen, -⟩, -⟩
    rw [smDecode_codecField s hlen]

/-- The bits of WBUF after an accepted set of a sign-magnitude field (41_codec R140). -/
theorem wbit_signedSet {s : State} (de : Bool) (v : Int) (hlen : 2 ≤ s.fldLen.toNat ∧ s.fldLen.toNat ≤ 32)
    (hfits : CodecFits s s.fldLen.toNat) (i : Nat) : wbit (signedSet de v s).wbuf i =
      if codecStart s ≤ i ∧ i < codecStart s + s.fldLen.toNat then signedBit v s.fldLen.toNat (i - codecStart s)
      else wbit s.wbuf i := by
  obtain ⟨-, hin, -⟩ := signedSet_effect de v s
  exact (hin ⟨hlen, hfits⟩).1 i

/-- FLD_VAL plays no part in a set but through the integer stored. -/
theorem signedSet_wbuf_with_fldVal (de : Bool) (v : Int) (s : State) (w : Word) :
    (signedSet de v { s with fldVal := w }).wbuf = (signedSet de v s).wbuf := by
  rw [signedSet, signedSet, codecSet_wbuf, codecSet_wbuf]
  rfl

/-- A set then a get of a sign-magnitude field answers a representable value (41_codec R143, R148). -/
theorem fldRes_signedGet_signedSet {s : State} {v : Int} (de : Bool)
    (hlen : 2 ≤ s.fldLen.toNat ∧ s.fldLen.toNat ≤ 32) (hfits : CodecFits s s.fldLen.toNat)
    (hv : v.natAbs ≤ 2 ^ (s.fldLen.toNat - 1) - 1) : (signedGet (signedSet de v s)).fldRes = BitVec.ofInt 32 v := by
  have hlt : v.natAbs < 2 ^ (s.fldLen.toNat - 1) := Nat.lt_of_le_pred (by positivity) hv
  have hfield : codecField (signedSet de v s) s.fldLen.toNat = smEncode v s.fldLen.toNat :=
    codecField_codecSet de _ _ ((signedAccepted_iff _ _).2 ⟨hlen, hfits⟩) hfits (smEncode_lt v (by omega))
  rw [fldRes_signedGet (s := signedSet de v s) (congrArg _ (codecSet_fldLen ..)) hlen
    ((codecFits_codecSet ..).2 hfits), hfield, smDecode_smEncode hlt, u32]

/-- The negation of a word has the magnitude of the word, the least word included. -/
theorem natAbs_toInt_neg (w : Word) : (-w).toInt.natAbs = w.toInt.natAbs := by
  rw [BitVec.toInt_neg]
  have hlow := BitVec.le_toInt w
  have hhigh := BitVec.toInt_lt (x := w)
  rw [Int.bmod_def]
  omega

/-- The encodings of two values of one magnitude differ in the sign alone (41_codec R143). -/
theorem signedBit_eq_of_natAbs_eq {v w : Int} (h : v.natAbs = w.natAbs) {L k : Nat} (hk : k ≠ L - 1) :
    signedBit v L k = signedBit w L k := by
  rw [signedBit, signedBit, if_neg hk, if_neg hk, h]

theorem tenths_ten_mul (t : Int) : tenths (10 * t) = t := by
  unfold tenths
  split <;> omega

end Sys2Proof.Machine
end

section
/-! PROOF. The results of the gets and the effects of the sets of the field codec (spec/41_codec.md rules R135 to R138,
R141, R142, R146 and R147). -/

open Sys2Proof Sys2Proof.Machine

namespace Sys2Proof.Proofs

/-- Settles O17: a field of one bit has the value of the bit. -/
theorem getBitResult : Obligations.GetBitResult := by
  refine ⟨rfl, fun s => ?_⟩
  have hexec : exec .getBit s = .next (codecGet (codecInRange s 1) (BitVec.ofNat 32 (codecField s 1)) s) := rfl
  rw [hexec, codecGet_eq _ _ (codecInRange_iff s 1), codecField_eq, fieldSum_one]
  cases wbit s.wbuf (codecStart s) <;> rfl

/-- Settles O18: the length and range checks together are the condition, and the field is the sum of its bits. -/
theorem getUnsResult : Obligations.GetUnsResult := by
  refine ⟨rfl, fun s => ?_⟩
  rw [← codecField_eq, ← codecGet_eq _ _ (unsignedAccepted_iff s _)]
  rfl

/-- Settles O19: GET_SGN and GET_TEMP have one effect. -/
theorem getSignedResult : Obligations.GetSignedResult := by
  refine ⟨rfl, rfl, fun s i hi => ?_⟩
  rw [← signedGet_eq]
  simp only [List.mem_cons, List.not_mem_nil, or_false] at hi
  rcases hi with rfl | rfl
  · exact exec_getSgn s
  · exact exec_getTemp s

/-- Settles O20: as numbers 0 and 1, the boolean stored and the field before differ when the bits do. -/
theorem setBitEffect : Obligations.SetBitEffect := by
  refine ⟨rfl, rfl, fun de s => ⟨_, rfl, codecSet_effect (codecInRange_iff s 1) id (fun _ k hk => ?_) fun _ => ?_⟩⟩
  · obtain rfl : k = 0 := by omega
    rw [valBool]
    cases s.fldVal != 0 <;> rfl
  · rw [codecField_eq, fieldSum_one, valBool]
    cases s.fldVal != 0 <;> cases wbit s.wbuf (codecStart s) <;> decide

/-- Settles O21: the bits stored are cut to the field's length, the value compared is not. -/
theorem setUnsEffect : Obligations.SetUnsEffect := by
  refine ⟨rfl, rfl, fun de s => ⟨_, rfl,
    codecSet_effect (unsignedAccepted_iff s _) And.right (fun _ k hk => ?_) fun _ => ?_⟩⟩
  · rw [fieldLength, Nat.testBit_mod_two_pow, decide_eq_true hk, Bool.true_and, valUnsigned, BitVec.testBit_toNat]
  · rw [codecField_eq, valUnsigned, ne_eq, Nat.cast_inj]
    rfl

/-- Settles O22: SET_SGN stores FLD_VAL as a signed integer. -/
theorem setSgnEffect : Obligations.SetSgnEffect :=
  ⟨rfl, rfl, fun de s => ⟨_, exec_setSgn de s, signedSet_effect de _ s⟩⟩

/-- Settles O23: SET_TEMP stores the tenths of FLD_VAL as SET_SGN does an integer. -/
theorem setTempEffect : Obligations.SetTempEffect :=
  ⟨rfl, rfl, fun de s => ⟨_, exec_setTemp de s, signedSet_effect de _ s⟩⟩

end Sys2Proof.Proofs
end

section
/-! PROOF. The laws of the unsigned, signed and temperature fields (spec/41_codec.md rules R139, R143 and R148). -/

open Sys2Proof Sys2Proof.Machine

namespace Sys2Proof.Proofs

/-- Settles O24: a value that fits is its own low bits, the bits outside the field are in SET_UNS's effect, and the sum
of clear bits is 0. -/
theorem unsignedRoundTrip : Obligations.UnsignedRoundTrip := by
  intro de s t u hmin hmax hfits hset hget
  refine ⟨fun hv => ?_, fun i hi => ?_, fun hclear z hz => ?_⟩
  · rw [fldRes_getUns_setUns ⟨hmin, hmax⟩ hfits hset hget, Nat.mod_eq_of_lt hv, BitVec.ofNat_toNat, BitVec.setWidth_eq]
  · obtain ⟨-, -, heffect⟩ := setUnsEffect
    obtain ⟨t', hexec, -, hin, -⟩ := heffect de s
    cases hset.symm.trans hexec
    rw [(hin ⟨⟨hmin, hmax⟩, hfits⟩).1 i, if_neg hi]
  · obtain ⟨-, hresult⟩ := getUnsResult
    cases (hresult s).symm.trans hz
    rw [fieldSum_of_clear hclear]
    exact ite_self _

/-- Settles O25: decoding undoes the encoding, whose top bit is the sign and whose other bits are the magnitude's, one
for a value and its negation. -/
theorem signedRoundTrip : Obligations.SignedRoundTrip := by
  intro de s t u hmin hmax hfits hv hset hget
  cases hset
  cases hget
  have hbit := fun v i => wbit_signedSet de v ⟨hmin, hmax⟩ hfits i
  refine ⟨?_, fun hneg => ?_, fun n hn i hi => ?_⟩
  · exact (fldRes_signedGet_signedSet de ⟨hmin, hmax⟩ hfits hv).trans (BitVec.ofInt_toInt)
  · refine (hbit _ _).trans ?_
    rw [if_pos (by omega), signedBit, if_pos (by omega)]
    exact decide_eq_true hneg
  · rw [exec_setSgn] at hn
    cases hn
    rw [signedSet_wbuf_with_fldVal, hbit]
    refine Eq.trans ?_ (hbit _ i).symm
    split
    · exact signedBit_eq_of_natAbs_eq (natAbs_toInt_neg _) (by omega)
    · rfl

/-- Settles O26: rounding gives back the tenths of ten times a value and 235 for 2346, and FLD_VAL reaches the buffer
through its tenths alone. -/
theorem temperatureRoundTrip : Obligations.TemperatureRoundTrip := by
  intro de s t u hmin hmax hfits hset hget
  rw [exec_setTemp] at hset
  cases hset
  cases hget
  have hround : ∀ t10, tenths s.fldVal.toInt = t10 → t10.natAbs ≤ 2 ^ (s.fldLen.toNat - 1) - 1 →
      (signedGet (signedSet de (tenths s.fldVal.toInt) s)).fldRes = BitVec.ofInt 32 t10 := by
    rintro _ rfl hv
    exact fldRes_signedGet_signedSet de ⟨hmin, hmax⟩ hfits hv
  refine ⟨fun t10 hval hv => ?_, fun hval hv => ?_, fun v n hsame hn i => ?_⟩
  · exact hround t10 (by rw [hval, tenths_ten_mul]) hv
  · exact hround 235 (by rw [hval]; decide) hv
  · rw [exec_setTemp] at hn
    cases hn
    rw [rhaz10_eq_tenths, rhaz10_eq_tenths] at hsame
    rw [signedSet_wbuf_with_fldVal, hsame]

end Sys2Proof.Proofs
end

section
/-! SUPPORT. The rows of the field table and of the group table, as what a looked-up descriptor and a GRP_SEL value have
(spec/42_views.md rules R170 and R171). -/

namespace Sys2Proof.Machine

/-! The field table -/

/-- An id no row has is invalid (42_views R171). -/
theorem fieldRom_of_unlisted {sel : BitVec 8} (h : ∀ r ∈ fieldRows, sel.toNat ≠ r.1) : fieldRom sel = none :=
  List.lookup_eq_none_iff.2 fun r hr => bne_iff_ne.2 (h r hr)

theorem len_pos_of_fieldRom {sel : BitVec 8} {d : FieldDesc} (h : fieldRom sel = some d) : 1 ≤ d.len := by
  obtain ⟨hpos, -⟩ := fieldRows_shape _ (fieldRom_mem h)
  exact hpos

theorem bit_len_of_fieldRom {sel : BitVec 8} {d : FieldDesc} (h : fieldRom sel = some d) (he : d.enc = .bit) :
    d.len = 1 := by
  obtain ⟨-, -, hbit, -⟩ := fieldRows_shape _ (fieldRom_mem h)
  exact hbit he

theorem signed_len_of_fieldRom {sel : BitVec 8} {d : FieldDesc} (h : fieldRom sel = some d)
    (he : d.enc = .sgn ∨ d.enc = .temp) : 2 ≤ d.len := by
  obtain ⟨-, -, -, -, -, hsgn, htemp, -⟩ := fieldRows_shape _ (fieldRom_mem h)
  exact he.elim hsgn htemp

/-- A coupled field lies above the fan-control enable, bits 4..7 of its block (42_views R177). -/
theorem coupled_offset_of_fieldRom {sel : BitVec 8} {d : FieldDesc} (h : fieldRom sel = some d)
    (hc : d.coupled = true) (s : State) : 8 ≤ viewOffset d s := by
  obtain ⟨-, -, -, -, -, -, -, -, hcoupled⟩ := fieldRows_shape _ (fieldRom_mem h)
  obtain ⟨-, hindexed, hoff⟩ := hcoupled hc
  rw [viewOffset, hindexed]
  exact hoff

/-- The coupled rows of the table are those of HD_FAN_DIR and HD_FAN_SPEED (42_views R177). -/
theorem fieldRows_coupled_iff : ∀ r ∈ fieldRows, r.2.coupled = true ↔ r.1 = 0x32 ∨ r.1 = 0x33 := by decide

theorem coupled_iff_of_fieldRom {sel : BitVec 8} {d : FieldDesc} (h : fieldRom sel = some d) :
    d.coupled = true ↔ sel = 0x32 ∨ sel = 0x33 := by
  rw [fieldRows_coupled_iff _ (fieldRom_mem h), ← BitVec.toNat_inj, ← BitVec.toNat_inj]
  rfl

/-! The group table -/

/-- The number of a group (42_views R170). -/
def Group.number : Group → Nat
  | .sys => 0 | .cap => 1 | .stat => 2 | .hold => 3 | .err => 4

theorem groupOfSel_eq_some_iff (g : BitVec 3) (grp : Group) : groupOfSel g = some grp ↔ g.toNat = grp.number := by
  revert g
  cases grp <;> decide

theorem groupOfSel_eq_none_iff (g : BitVec 3) : groupOfSel g = none ↔ 4 < g.toNat := by
  revert g
  decide

/-- Only the system block is not per unit, and it is group 0 (42_views R170, R190). -/
theorem Group.perUnit_iff (g : Group) : g.perUnit = true ↔ g.number ≠ 0 := by
  cases g <;> decide

end Sys2Proof.Machine
end

section
/-! SUPPORT. What VIEW_SET makes of an in-range field: the field's bits, then the fan-control enable of a coupled one,
which lies below it (spec/42_views.md rules R176 and R177). -/

namespace Sys2Proof.Machine

/-- WBUF with the field of a view written, before the coupling (42_views R176). -/
def viewWritten (d : FieldDesc) (s : State) : Memory 16 :=
  setf s.wbuf s.fldBase.toNat (viewOffset d s) (encBits d.enc d.len s) d.len

theorem viewStore_wbuf (de : Bool) (d : FieldDesc) (s : State) : (viewStore de d s).wbuf =
    if d.coupled then coupleWrite (viewWritten d s) s.fldBase.toNat else viewWritten d s := rfl

/-- A field in range lies inside WBUF (42_views R172). -/
theorem viewFits_end {d : FieldDesc} {s : State} (hfits : ViewFits d s) :
    16 * s.fldBase.toNat + viewOffset d s + d.len ≤ 2048 := by
  obtain ⟨hwindow, hend, -⟩ := hfits
  unfold viewOffset
  omega

theorem dirtyAfter_iff (de changed dirty : Bool) :
    dirtyAfter de changed dirty = true ↔ dirty = true ∨ (de = true ∧ changed = true) := by
  simp [dirtyAfter]

theorem coupleChanged_iff (m : Memory 16) (b : Nat) : coupleChanged m b = true ↔ fieldSum m (16 * b + 4) 4 ≠ 6 := by
  rw [coupleChanged, getf_eq_fieldSum, bne_iff_ne]

section
variable {d : FieldDesc} {s : State} (hrow : fieldRom s.fldSel = some d) (hfits : ViewFits d s)
include hrow hfits

theorem wbit_viewWritten (i : Nat) : wbit (viewWritten d s) i =
    if viewStart d s ≤ i ∧ i < viewStart d s + d.len then viewBit d s (i - viewStart d s) else wbit s.wbuf i := by
  rw [viewWritten, wbit_setf _ _ (viewFits_end hfits)]
  refine ite_congr rfl (fun hin => ?_) fun _ => rfl
  have hk : i - viewStart d s < d.len := by omega
  exact testBit_encBits d s (bit_len_of_fieldRom hrow) (len_pos_of_fieldRom hrow) hk

theorem wbit_viewStore (de : Bool) (i : Nat) : wbit (viewStore de d s).wbuf i =
    if viewStart d s ≤ i ∧ i < viewStart d s + d.len then viewBit d s (i - viewStart d s)
    else if d.coupled = true ∧ 16 * s.fldBase.toNat + 4 ≤ i ∧ i < 16 * s.fldBase.toNat + 8 then
      (6 : Nat).testBit (i - (16 * s.fldBase.toNat + 4))
    else wbit s.wbuf i := by
  rw [viewStore_wbuf]
  by_cases hc : d.coupled = true
  · have habove : 16 * s.fldBase.toNat + 8 ≤ viewStart d s :=
      Nat.add_le_add_left (coupled_offset_of_fieldRom hrow hc s) _
    have hend : viewStart d s + d.len ≤ 2048 := viewFits_end hfits
    rw [if_pos hc, coupleWrite, wbit_setf _ _ (by omega), wbit_viewWritten hrow hfits]
    by_cases henable : 16 * s.fldBase.toNat + 4 ≤ i ∧ i < 16 * s.fldBase.toNat + 8
    · rw [if_pos henable, if_neg (by omega), if_pos ⟨hc, henable⟩]
    · rw [if_neg henable]
      exact ite_congr rfl (fun _ => rfl) fun _ => (if_neg fun h => henable h.2).symm
  · rw [if_neg hc, wbit_viewWritten hrow hfits]
    exact ite_congr rfl (fun _ => rfl) fun _ => (if_neg fun h => hc h.1).symm

/-- The coupled field written, the enable reads as before (42_views R177). -/
theorem coupleChanged_viewWritten (hc : d.coupled = true) :
    coupleChanged (viewWritten d s) s.fldBase.toNat = coupleChanged s.wbuf s.fldBase.toNat := by
  have habove := coupled_offset_of_fieldRom hrow hc s
  rw [coupleChanged, viewWritten, getf_setf_disjoint _ (viewFits_end hfits) (.inl habove), coupleChanged]

theorem viewStore_fldDirty_iff (de : Bool) : (viewStore de d s).fldDirty = true ↔
    s.fldDirty = true ∨ (de = true ∧
      (ViewChanges d s ∨ (d.coupled = true ∧ fieldSum s.wbuf (16 * s.fldBase.toNat + 4) 4 ≠ 6))) := by
  have henable : (d.coupled && coupleChanged (viewWritten d s) s.fldBase.toNat) = true ↔
      d.coupled = true ∧ fieldSum s.wbuf (16 * s.fldBase.toNat + 4) 4 ≠ 6 := by
    rw [Bool.and_eq_true, ← coupleChanged_iff]
    exact and_congr_right fun hc => by rw [coupleChanged_viewWritten hrow hfits hc]
  refine (dirtyAfter_iff _ _ _).trans ?_
  rw [Bool.or_eq_true, bne_iff_ne, encReq_ne_encOld d s (bit_len_of_fieldRom hrow) (signed_len_of_fieldRom hrow)]
  exact or_congr_right (and_congr_right fun _ => or_congr_right henable)

end

end Sys2Proof.Machine
end

section
/-! PROOF. The field table, the views and GRP_SETUP (spec/42_views.md rules R171, R175, R176 and R190). -/

open Sys2Proof Sys2Proof.Machine

namespace Sys2Proof.Proofs

/-- Settles O60: the table is looked up by number, and a number that is none of its rows' finds none. -/
theorem fieldTableRows : Obligations.FieldTableRows := by
  refine ⟨rfl, rfl, fun sel => ?_⟩
  split
  rotate_right
  · refine fieldRom_of_unlisted ?_
    simp only [fieldRows, fieldRowsSysCap, fieldRowsStatHold, fieldRowsErr, List.cons_append, List.nil_append,
      List.forall_mem_cons, List.not_mem_nil, false_imp_iff, implies_true, and_true]
    and_intros <;> assumption
  all_goals
    rename_i hsel
    rw [fieldRom, hsel]
    rfl

/-- Settles O28: a view's get is a codec get of the descriptor's field. -/
theorem viewGetResult : Obligations.ViewGetResult := by
  refine ⟨rfl, fun s => ⟨fun hinvalid => execViewGet_of_invalid hinvalid, fun d hrow => ?_⟩⟩
  rw [← decodeEnc_eq d s (signed_len_of_fieldRom hrow),
    ← codecGet_eq _ _ (viewInRange_iff d s (len_pos_of_fieldRom hrow))]
  exact execViewGet_of_row hrow

/-- Settles O29: the enable lies below every coupled field, so it is read and written as if the field had not been. -/
theorem viewSetEffect : Obligations.ViewSetEffect := by
  refine ⟨rfl, rfl, fun de s => ⟨fun hinvalid => execViewSet_of_invalid de hinvalid, fun d hrow => ?_⟩⟩
  refine ⟨coupled_iff_of_fieldRom hrow, ?_⟩
  have hrange := viewInRange_iff d s (len_pos_of_fieldRom hrow)
  by_cases hfits : ViewFits d s
  · exact ⟨_, execViewSet_of_inRange de hrow (hrange.2 hfits), rfl,
      fun _ => ⟨wbit_viewStore hrow hfits de, viewStore_fldDirty_iff hrow hfits de⟩, fun hout => absurd hfits hout⟩
  · exact ⟨_, execViewSet_of_outOfRange de hrow fun h => hfits (hrange.1 h), rfl,
      fun hin => absurd hin hfits, fun _ => ⟨rfl, rfl⟩⟩

/-- Settles O33: GRP_SEL is a group's number or above them all, and the block's address and words are the group's. -/
theorem groupSetupResult : Obligations.GroupSetupResult := by
  refine ⟨rfl, fun s => ?_⟩
  cases hgroup : groupOfSel s.grpSel with
  | none =>
    rw [if_pos (.inl ((groupOfSel_eq_none_iff _).1 hgroup))]
    exact execGrpSetup_of_invalid (by simp [hgroup])
  | some g =>
    have hsel := (groupOfSel_eq_some_iff _ _).1 hgroup
    by_cases hunit : g.perUnit = true ∧ 63 < s.grpUnit.toNat
    · rw [if_pos (.inr (by rwa [hsel, ← g.perUnit_iff]))]
      exact execGrpSetup_of_invalid (by simp [hgroup, hunit])
    · have hnamed : ¬ 4 < s.grpSel.toNat := by simp [← groupOfSel_eq_none_iff, hgroup]
      rw [if_neg (not_or.2 ⟨hnamed, by rwa [hsel, ← g.perUnit_iff]⟩), hsel]
      refine (execGrpSetup_of_group hgroup (by simpa using hunit)).trans ?_
      cases g <;> rfl

end Sys2Proof.Proofs
end

section
/-! SUPPORT. CRC_BYTE: its word and its step (spec/43_crc.md rules R200 and R204). -/

namespace Sys2Proof

/-- The word of CRC_BYTE has the byte in bits [23:16] and the opcode below (43_crc R204). -/
theorem encode_crcByte (b : Byte) : encode (.crcByte b) = BitVec.ofNat 32 (0x10000 * b.toNat + 0x0002) := by
  have hword : encode (.crcByte b) = 0x0002#32 ||| b.setWidth 32 <<< 16 := by
    simp [encode, wordOfFields, Instr.fields, Instr.opcode, Instr.dirtyEnable, Instr.immediate]
  have hdisjoint : 0x10000 * b.toNat + 0x0002 = 0x0002 ||| b.toNat <<< 16 := by
    rw [Nat.or_comm, Nat.shiftLeft_eq, Nat.mul_comm b.toNat]
    exact Nat.two_pow_add_eq_or_of_lt (i := 16) (by decide) b.toNat
  rw [hword, hdisjoint, BitVec.ofNat_or]
  rfl

/-- The word `0x00bb0002` is CRC_BYTE of bb (43_crc R204). -/
theorem decode_crcByte_word (b : Byte) : decode (BitVec.ofNat 32 (0x10000 * b.toNat + 0x0002)) = .ok (.crcByte b) :=
  decode_eq_ok_iff_eq_encode.2 (encode_crcByte b).symm

namespace Machine

/-- CRC_BYTE makes one CRC step and changes nothing else but CRES (43_crc R204). -/
theorem exec_crcByte (b : Byte) (s : State) :
    exec (.crcByte b) s = .next { s with cres := .ok, crc := crcStep s.crc b } := rfl

end Machine

end Sys2Proof
end

section
/-! PROOF. CRC_BYTE (spec/43_crc.md rules R200 and R204). -/

open Sys2Proof Sys2Proof.Machine

namespace Sys2Proof.Proofs

/-- Settles O13: the byte's word is the encoding of CRC_BYTE, and the eight shifts of a CRC step are an iteration of one
shift. -/
theorem crcByteAdvancesCrc : Obligations.CrcByteAdvancesCrc := by
  refine fun b s => ⟨decode_crcByte_word b, ?_⟩
  rw [exec_crcByte, crcStep, crcShift_eq_iterate]
  rfl

end Sys2Proof.Proofs
end

section
/-! SUPPORT. The argument check of an RTU command (spec/44_rtu.md rule R230). -/

namespace Sys2Proof.Machine

/-- An RTU command in IDLE with bad arguments changes CRES and RES alone (44_rtu R230). -/
theorem rtuCommand_of_illegal {op : RtuOp} {s : State} (fc : BitVec 8) (hidle : s.framer = .idle)
    (hargs : ¬ ArgumentsLegal s (maxCount s.params op)) :
    rtuCommand op fc s = { s with cres := .ok, res := .errArg } := by
  rcases rtuCommand_cases op fc s with ⟨hbusy, -⟩ | ⟨-, -, h⟩ | ⟨-, hlegal, -⟩
  · exact absurd hidle hbusy
  · exact h
  · exact absurd hlegal hargs

end Sys2Proof.Machine
end

section
/-! SUPPORT. The byte that completes a response: the state it leaves, and WBUF after it (spec/44_rtu.md rules R246 and
R248 to R250). -/

namespace Sys2Proof.Machine

/-- Completing a response changes the framer's state, RES and WBUF, and no other field (44_rtu R246). -/
theorem completeResponse_frame (s : State) : completeResponse s =
    { s with framer := .idle, res := validate s, wbuf := (completeResponse s).wbuf } := by
  rcases completeResponse_cases s with ⟨hok, -, h⟩ | ⟨-, h⟩
  · rw [h, hok]; rfl
  · rw [h]

@[simp] theorem completeResponse_framer (s : State) : (completeResponse s).framer = .idle := rfl
@[simp] theorem completeResponse_res (s : State) : (completeResponse s).res = validate s := rfl
@[simp] theorem completeResponse_dir (s : State) : (completeResponse s).dir = s.dir := by rw [completeResponse_frame]
@[simp] theorem completeResponse_rxlen (s : State) : (completeResponse s).rxlen = s.rxlen := by
  rw [completeResponse_frame]
@[simp] theorem completeResponse_explen (s : State) : (completeResponse s).explen = s.explen := by
  rw [completeResponse_frame]
@[simp] theorem completeResponse_rxbuf (s : State) : (completeResponse s).rxbuf = s.rxbuf := by
  rw [completeResponse_frame]

/-- A write response leaves WBUF alone, whatever the verdict (44_rtu R249). -/
theorem completeResponse_wbuf_of_write {s : State} (hop : s.lat.op = .write) : (completeResponse s).wbuf = s.wbuf := by
  rcases completeResponse_cases s with ⟨-, hread, -⟩ | ⟨-, h⟩
  · exact absurd (hread.symm.trans hop) (by decide)
  · rw [h]

/-- A read response puts its data words in the transaction's window exactly when the verdict is OK (44_rtu R250). -/
theorem read_completeResponse_of_read {s : State} (hop : s.lat.op = .read)
    (hwindow : s.lat.xbase.toNat + s.lat.count.toNat ≤ 128) (j : Nat) :
    Memory.read (completeResponse s).wbuf j =
      if validate s = .ok ∧ s.lat.xbase.toNat ≤ j ∧ j < s.lat.xbase.toNat + s.lat.count.toNat then
        responseWord s (j - s.lat.xbase.toNat)
      else Memory.read s.wbuf j := by
  rcases completeResponse_cases s with ⟨hok, -, h⟩ | ⟨hbad, h⟩
  · simp only [h, hok, true_and]
    exact read_commitRead s hwindow j
  · rw [h, if_neg fun hc => hbad ⟨hc.1, hop⟩]

/-- A word of the response, when its bytes are known (20_memory R67). -/
theorem responseWord_eq {s : State} {y : Nat → Byte} (hy : ∀ k, Memory.read s.rxbuf k = y k) (k : Nat) :
    responseWord s k = BitVec.ofNat 16 ((y (3 + 2 * k)).toNat * 256 + (y (4 + 2 * k)).toNat) := by
  rw [responseWord, wordOfBytes_eq, rxByteAt, rxByteAt, hy, hy]

theorem validate_of_read {s : State} (hop : s.lat.op = .read) : validate s = validateRead s := by
  simp only [validate, hop]

theorem validate_of_write {s : State} (hop : s.lat.op = .write) : validate s = validateWrite s := by
  simp only [validate, hop]

/-- The byte that brings RXLEN to EXPLEN completes the response (44_rtu R246). -/
theorem runEvent_serRxbyte_of_last {s : State} (b : Byte) (hrx : s.framer = .rx)
    (hlast : s.rxlen.toNat + 1 = s.explen.toNat) :
    runEvent (.serRxbyte b) s = .next (completeResponse (storeRxByte b s)) := by
  have hlen : s.rxlen + 1 = s.explen := by bv_omega
  rcases rxByte_cases b s with ⟨hdropped, -⟩ | ⟨-, hmore, -⟩ | ⟨-, -, h⟩
  · exact absurd hrx hdropped
  · exact absurd hlen hmore
  · rw [runEvent, h]

end Sys2Proof.Machine
end

section
/-! SUPPORT. What one step of an agent makes of the framer's state, DIR and RES, said once for every event, and the two
parts of the invariant that speak of them (spec/44_rtu.md section 4, rule R251; spec/10_state.md rules R23 and R31). -/

namespace Sys2Proof.Machine

/-- The fields of State that say where a transaction is: the framer's state, DIR and RES, with the parameters DIR
depends on. -/
def framerControl (s : State) : FramerState × BitVec 2 × ResCode × Params := (s.framer, s.dir, s.res, s.params)

theorem framerControl_eq_iff (s t : State) : framerControl t = framerControl s ↔
    t.framer = s.framer ∧ t.dir = s.dir ∧ t.res = s.res ∧ t.params = s.params := by
  simp only [framerControl, Prod.mk.injEq]

/-- The ways one step of an agent moves the framer (44_rtu R230 to R250, 10_state R52, 70_reset R310). -/
inductive FramerMove (s : State) : Event → State → Prop where
  /-- a step that leaves the framer where it is -/
  | stays {e : Event} {t : State} (hsame : framerControl t = framerControl s) : FramerMove s e t
  /-- an RTU command with bad arguments (44_rtu R230) -/
  | refused (w : Word) (op : RtuOp) (hidle : s.framer = .idle) (hargs : ¬ ArgumentsLegal s (maxCount s.params op)) :
      FramerMove s (.hostWrite 0x004 4 w) { s with cres := .ok, res := .errArg }
  /-- an accepted RTU command (44_rtu R231) -/
  | accepted (w : Word) (op : RtuOp) (fc : BitVec 8) (hidle : s.framer = .idle)
      (hargs : ArgumentsLegal s (maxCount s.params op)) :
      FramerMove s (.hostWrite 0x004 4 w) (accept op fc { s with cres := .ok })
  /-- the serial port takes the whole frame (44_rtu R242) -/
  | offerTaken (hoffered : s.framer = .txWrite) :
      FramerMove s (.serAccept s.txlen.toNat) { s with framer := .txWait }
  /-- the serial port takes less than the frame (44_rtu R242) -/
  | offerCutShort (n : Nat) (hoffered : s.framer = .txWrite) (hshort : n < s.txlen.toNat) :
      FramerMove s (.serAccept n) { s with framer := .idle, dir := 0, res := .errWriteCount }
  /-- transmit-complete (44_rtu R244) -/
  | transmitted (hwait : s.framer = .txWait) : FramerMove s .serTxdone { s with framer := .rx, dir := 0 }
  /-- the last byte of the response (44_rtu R246) -/
  | responseComplete (b : Byte) (hrx : s.framer = .rx) (hlast : s.rxlen + 1 = s.explen) :
      FramerMove s (.serRxbyte b) (completeResponse (storeRxByte b s))
  /-- the tick that reaches the deadline (10_state R52) -/
  | deadline (hbusy : s.framer ≠ .idle) (hreached : s.lat.timeout.toNat ≤ (elapsedNext s.elapsed).toNat) :
      FramerMove s .tick { s with elapsed := elapsedNext s.elapsed, dir := 0, framer := .idle, res := .errTimeout }
  /-- the reset input (70_reset R310) -/
  | reset : FramerMove s .reset (resetStep s)

theorem framerMove_of_rtuCommand (w : Word) (op : RtuOp) (fc : BitVec 8) (s : State) :
    FramerMove s (.hostWrite 0x004 4 w) (rtuCommand op fc s) := by
  rcases rtuCommand_cases op fc s with ⟨-, h⟩ | ⟨hidle, hargs, h⟩ | ⟨hidle, hargs, h⟩ <;> rw [h]
  · exact .stays rfl
  · exact .refused w op hidle hargs
  · exact .accepted w op fc hidle hargs

/-- A CMD write moves the framer only as an RTU command (40_control R120 to R123). -/
theorem framerMove_of_runCommand {w : Word} {s t : State} (h : runCommand w s = .next t) :
    FramerMove s (.hostWrite 0x004 4 w) t := by
  rcases runCommand_cases h with ⟨-, rfl⟩ | ⟨i, -, hi, hexec⟩ | ⟨i, -, hi, hexec⟩
  · exact .stays rfl
  · exact .stays (by rw [(exec_frame hi hexec).1]; rfl)
  · rcases exec_rtu hi hexec with ⟨-, rfl⟩ | ⟨-, rfl⟩ | ⟨-, rfl⟩ <;> exact framerMove_of_rtuCommand w _ _ s

/-- Every step of an agent is one of the framer's moves. -/
theorem framerMove_of_runEvent {e : Event} {s t : State} (h : runEvent e s = .next t) : FramerMove s e t := by
  rcases runEvent_cases h with ⟨w, rfl, hcmd⟩ | ⟨a, v, rfl, -, -, -, rfl⟩ | ⟨a, rfl, -, -, rfl⟩ |
    ⟨n, rfl, hoffered, hn, rfl⟩ | ⟨n, rfl, -, rfl⟩ | ⟨rfl, rfl⟩ | ⟨b, rfl, rfl⟩ | ⟨rfl, rfl⟩ | ⟨rfl, rfl⟩
  · exact framerMove_of_runCommand hcmd
  · exact .stays (by rw [(hostStore_frame a v s).1]; rfl)
  · exact .stays rfl
  · rcases acceptCount_cases n s with ⟨rfl, h⟩ | ⟨hne, h⟩ <;> rw [h]
    · exact .offerTaken hoffered
    · exact .offerCutShort n hoffered (lt_of_le_of_ne hn hne)
  · exact .stays rfl
  · rcases txDone_cases s with ⟨hwait, h⟩ | ⟨-, h⟩ <;> rw [h]
    · exact .transmitted hwait
    · exact .stays rfl
  · rcases rxByte_cases b s with ⟨-, h⟩ | ⟨-, -, h⟩ | ⟨hrx, hlast, h⟩ <;> rw [h]
    · exact .stays rfl
    · exact .stays rfl
    · exact .responseComplete b hrx hlast
  · rcases tickStep_cases s with ⟨-, h⟩ | ⟨-, -, h⟩ | ⟨hbusy, hreached, h⟩ <;> rw [h]
    · exact .stays rfl
    · exact .stays rfl
    · exact .deadline hbusy hreached
  · exact .reset

theorem dir_eq_zero_of_not_transmitting {s : State} (hdir : DirLegal s) (hs : ¬ Transmitting s) : s.dir = 0 :=
  hdir.trans (if_neg hs)

/-- The framer is in one of the transmit states, in RX or in IDLE (10_state R41). -/
theorem not_transmitting_iff (s : State) : ¬ Transmitting s ↔ s.framer = .rx ∨ s.framer = .idle := by
  cases h : s.framer <;> simp [Transmitting, h]

/-- DIR is asserted exactly in the transmit states after every step (44_rtu R251). -/
theorem dirLegal_of_runEvent {e : Event} {s t : State} (hs : DirLegal s) (h : runEvent e s = .next t) : DirLegal t := by
  cases framerMove_of_runEvent h with
  | stays hsame =>
    obtain ⟨hframer, hdir, -, hparams⟩ := (framerControl_eq_iff s t).1 hsame
    simpa only [DirLegal, hframer, hdir, hparams] using hs
  | refused => exact hs
  | accepted | offerCutShort | transmitted | deadline | reset => rfl
  | offerTaken hoffered => exact hs.trans (if_pos (.inl hoffered))
  | responseComplete b hrx =>
    rw [DirLegal, completeResponse_framer, completeResponse_dir, storeRxByte_dir]
    exact dir_eq_zero_of_not_transmitting hs ((not_transmitting_iff s).2 (.inl hrx))

/-- No validation leaves RES at PENDING (44_rtu R248, R249). -/
theorem validate_ne_pending (s : State) : validate s ≠ .pending := by
  rcases validate_cases s with h | h | h <;> rw [h] <;> decide

/-- RES is PENDING exactly while a transaction runs, after every step (10_state R23). -/
theorem resLegal_of_runEvent {e : Event} {s t : State} (hs : ResLegal s) (h : runEvent e s = .next t) : ResLegal t := by
  cases framerMove_of_runEvent h with
  | stays hsame =>
    obtain ⟨hframer, -, hres, -⟩ := (framerControl_eq_iff s t).1 hsame
    simpa only [ResLegal, hframer, hres] using hs
  | refused w op hidle => simp [ResLegal, hidle]
  | accepted => simp [ResLegal, accept]
  | offerTaken hoffered => simpa [ResLegal, hoffered] using hs
  | transmitted hwait => simpa [ResLegal, hwait] using hs
  | responseComplete b => simp [ResLegal, validate_ne_pending]
  | offerCutShort | deadline => simp [ResLegal]
  | reset => simp [ResLegal, resetStep, State.resetWith]

end Sys2Proof.Machine
end

section
/-! PROOF. The argument check, the validation of a response, and how a transaction ends (spec/44_rtu.md rules R230, R248,
R249, R251 and R252). -/

open Sys2Proof.Machine

namespace Sys2Proof.Proofs

/-- Settles O34: the three commands are one command of an operation and a function code, refused in IDLE. -/
theorem rtuArgumentError : Obligations.RtuArgumentError := by
  intro s hidle
  refine ⟨fun i hi hbad => ?_, fun hbad => congrArg _ (rtuCommand_of_illegal (op := .write) 0x10 hidle hbad)⟩
  simp only [List.mem_cons, List.not_mem_nil, or_false] at hi
  rcases hi with rfl | rfl
  · exact congrArg _ (rtuCommand_of_illegal (op := .read) 0x03 hidle hbad)
  · exact congrArg _ (rtuCommand_of_illegal (op := .read) 0x04 hidle hbad)

/-- Settles O40: the last byte completes the response, whose verdict is read off the bytes RXBUF then holds, and the words
the commit writes are pairs of them. -/
theorem readResponseValidated : Obligations.ReadResponseValidated := by
  intro s b hinv hrx hop hlast
  obtain ⟨-, -, -, ⟨-, hexplen, -⟩, htransaction, -⟩ := hinv
  obtain ⟨-, hwindow, -⟩ := htransaction (by rw [hrx]; decide)
  have hbytes := read_storeRxByte b s (by omega)
  change (storeRxByte b s).lat.op = .read at hop
  have hverdict := (validate_of_read hop).trans (validateRead_eq _ _ hbytes)
  refine ⟨_, runEvent_serRxbyte_of_last b hrx hlast, ?_, fun k => ?_, fun j => ?_⟩
  · rw [completeResponse_rxbuf]
    exact (completeResponse_frame _).trans (by rw [hverdict]; rfl)
  · rw [completeResponse_rxbuf, hbytes]
  · rw [read_completeResponse_of_read hop hwindow, responseWord_eq hbytes, hverdict]
    rfl

/-- Settles O41: the last byte completes the response, whose verdict is read off the bytes RXBUF then holds; no write
response is committed. -/
theorem writeResponseValidated : Obligations.WriteResponseValidated := by
  intro s b hinv hrx hop hlast
  obtain ⟨-, -, -, ⟨-, hexplen, -⟩, -⟩ := hinv
  have hbytes := read_storeRxByte b s (by omega)
  change (storeRxByte b s).lat.op = .write at hop
  have hverdict := (validate_of_write hop).trans (validateWrite_eq _ _ hbytes)
  refine ⟨_, runEvent_serRxbyte_of_last b hrx hlast, ?_, fun k => ?_⟩
  · rw [completeResponse_rxbuf]
    refine (completeResponse_frame _).trans ?_
    rw [hverdict, completeResponse_wbuf_of_write hop]
    rfl
  · rw [completeResponse_rxbuf, hbytes]

/-- Settles O45: of the moves that leave a running framer idle, only a completed response can have RES = OK, and only the
deadline is a tick. -/
theorem noShortSuccess : Obligations.NoShortSuccess := by
  intro e s t hinv hbusy hreset hrun hidle
  obtain ⟨-, -, -, -, htransaction, -⟩ := hinv
  obtain ⟨⟨hcount, -⟩, -, -, hread, hwrite, -⟩ := htransaction hbusy
  cases framerMove_of_runEvent hrun with
  | stays hsame =>
    obtain ⟨hframer, -⟩ := (framerControl_eq_iff s t).1 hsame
    exact absurd (hframer.symm.trans hidle) hbusy
  | refused w op h => exact absurd h hbusy
  | accepted w op fc h => exact absurd h hbusy
  | offerTaken | transmitted => cases hidle
  | offerCutShort => exact ⟨nofun, nofun⟩
  | responseComplete b hrx hlast =>
    refine ⟨fun _ => ⟨⟨b, rfl⟩, hrx, ?_, fun hop => ?_, fun hop => ?_⟩, nofun⟩
    · simpa using hlast
    · obtain ⟨-, -, hlen⟩ := hread hop
      rw [completeResponse_explen, storeRxByte_explen]
      omega
    · obtain ⟨-, -, hlen⟩ := hwrite hop
      simpa using hlen
  | deadline => exact ⟨nofun, fun _ => rfl⟩
  | reset => exact absurd rfl hreset

/-- Settles O47: DIR and RES stay legal in every step, which gives DIR in RX, in IDLE and after an argument error; the
moves out of the transmit states are the four named. -/
theorem directionReleasedOnExit : Obligations.DirectionReleasedOnExit := by
  intro e s t hinv hrun
  obtain ⟨-, hdir, hres, -⟩ := hinv
  have hreleased := fun hs => dir_eq_zero_of_not_transmitting (dirLegal_of_runEvent hdir hrun) hs
  have herrIdle : t.res = .errArg → t.framer = .idle := fun herr => by
    by_contra hbusy
    exact absurd ((resLegal_of_runEvent hres hrun).2 hbusy) (by rw [herr]; decide)
  refine ⟨fun hs ht => ⟨hreleased ht, ?_⟩, fun ht => hreleased ((not_transmitting_iff t).2 ht),
    fun herr => hreleased ((not_transmitting_iff t).2 (.inr (herrIdle herr)))⟩
  cases framerMove_of_runEvent hrun with
  | stays hsame =>
    obtain ⟨hframer, -⟩ := (framerControl_eq_iff s t).1 hsame
    exact absurd (by rwa [Transmitting, hframer]) ht
  | refused w op hidle | accepted w op fc hidle => exact absurd hs ((not_transmitting_iff s).2 (.inr hidle))
  | offerTaken => exact absurd (.inr rfl) ht
  | offerCutShort n _ hshort => exact .inr (.inl ⟨n, rfl, hshort.ne⟩)
  | transmitted => exact .inl rfl
  | responseComplete b hrx => exact absurd hs ((not_transmitting_iff s).2 (.inl hrx))
  | deadline => exact .inr (.inr (.inl rfl))
  | reset => exact .inr (.inr (.inr rfl))

end Sys2Proof.Proofs
end

section
/-! SUPPORT. What a host read answers after the reset step (spec/70_reset_and_hazards.md rule R310). -/

namespace Sys2Proof.Machine

@[simp] theorem runEvent_reset (s : State) : runEvent .reset s = .next (resetStep s) := rfl

/-- STATUS after reset does not depend on the state reset was taken in. -/
@[simp] theorem statusWord_resetStep (s : State) : statusWord (resetStep s) = 0 := statusWord_reset

/-- Reset empties the three buffers, and the other offsets above the registers are reserved. -/
@[simp] theorem bufferLoad_resetStep (a : Nat) (s : State) : bufferLoad a (resetStep s) = 0 := by
  unfold bufferLoad
  split_ifs <;> rfl

/-- ID, TIMEOUT and CRC are the only words a host read can find nonzero after reset. -/
theorem hostLoad_resetStep (a : Nat) (s : State) : hostLoad a (resetStep s) =
    if a = 0x000 then 0x44334E54 else if a = 0x01C then s.params.timeoutReset.setWidth 32
      else if a = 0x034 then 0x0000FFFF else 0 := by
  unfold hostLoad
  split
  case h_3 => -- STATUS
    exact statusWord_resetStep s
  rotate_right
  · -- no register's offset
    rw [if_neg (by assumption), if_neg (by assumption), if_neg (by assumption), bufferLoad_resetStep]
  all_goals rfl

end Sys2Proof.Machine
end

section
/-! PROOF. What reset leaves (spec/70_reset_and_hazards.md rule R310). -/

open Sys2Proof.Machine

namespace Sys2Proof.Proofs

/-- Settles O56: the host's view of the reset state is read offset by offset, an emptied buffer reads 0 in every cell, and
the rest are the fields the reset state is built from. -/
theorem resetStepValues : Obligations.ResetStepValues := by
  intro s
  exact ⟨resetStep s, runEvent_reset s, fun a _ => hostLoad_resetStep a s, rfl, rfl, rfl, rfl, rfl,
    fun k => ⟨Memory.read_nil k, Memory.read_nil k, Memory.read_nil k⟩, rfl⟩

end Sys2Proof.Proofs
end

section
/-! PROOF. Commands and their words (spec/30_encoding.md rules R90 to R93). -/

open Sys2Proof Sys2Proof.Machine

namespace Sys2Proof.Proofs

/-- Settles O1: a command's fields are legal, and its word is the one that decodes to it. -/
theorem decodeOfEncode : Obligations.DecodeOfEncode := fun i =>
  ⟨i.fields_wf, decode_eq_ok_iff_eq_encode.2 rfl⟩

/-- Settles O2: a word that decodes to a command is the command's word. -/
theorem encodeOfDecode : Obligations.EncodeOfDecode := fun _ _ h => (decode_eq_ok_iff_eq_encode.1 h).symm

end Sys2Proof.Proofs
end

section
/-! SUPPORT. The fields each step of an agent can change, said once for every event: the steps of the serial port and the
time base, the host's accesses, and what no step changes (spec/10_state.md rules R40, R45, R46 and R50). -/

namespace Sys2Proof.Machine

theorem acceptCount_frame (n : Nat) (s : State) : acceptCount n s = { s with
    framer := (acceptCount n s).framer, dir := (acceptCount n s).dir, res := (acceptCount n s).res } := by
  rcases acceptCount_cases n s with ⟨-, h⟩ | ⟨-, h⟩ <;> rw [h]

theorem txDone_frame (s : State) :
    txDone s = { s with framer := (txDone s).framer, dir := (txDone s).dir } := by
  rcases txDone_cases s with ⟨-, h⟩ | ⟨-, h⟩ <;> rw [h]

theorem rxByte_frame (b : Byte) (s : State) : rxByte b s = { s with
    framer := (rxByte b s).framer, res := (rxByte b s).res, rxlen := (rxByte b s).rxlen, rxbuf := (rxByte b s).rxbuf,
    wbuf := (rxByte b s).wbuf } := by
  rcases rxByte_cases b s with ⟨-, h⟩ | ⟨-, -, h⟩ | ⟨-, -, h⟩ <;> rw [h]
  · rfl
  · rw [completeResponse_frame]
    rfl

theorem tickStep_frame (s : State) : tickStep s = { s with
    elapsed := (tickStep s).elapsed, framer := (tickStep s).framer, dir := (tickStep s).dir,
    res := (tickStep s).res } := by
  rcases tickStep_cases s with ⟨-, h⟩ | ⟨-, -, h⟩ | ⟨-, -, h⟩ <;> rw [h]

/-- Every step of an agent is a CMD write, another host write, a host read, reset, or a step of the serial port or the
time base, which changes the framer's progress and WBUF alone. -/
theorem runEvent_frame {e : Event} {s t : State} (h : runEvent e s = .next t) :
    (∃ w, e = .hostWrite 0x004 4 w ∧ runCommand w s = .next t) ∨
    (∃ a v, t = hostStore a v s) ∨
    t = { s with hostRdata := t.hostRdata } ∨
    (e = .reset ∧ t = resetStep s) ∨
    t = { s with
      framer := t.framer, dir := t.dir, res := t.res, elapsed := t.elapsed, rxlen := t.rxlen, rxbuf := t.rxbuf,
      wbuf := t.wbuf } := by
  rcases runEvent_cases h with ⟨w, rfl, hcmd⟩ | ⟨a, v, -, -, -, -, rfl⟩ | ⟨a, -, -, -, rfl⟩ | ⟨n, -, -, -, rfl⟩ |
    ⟨n, -, -, rfl⟩ | ⟨-, rfl⟩ | ⟨b, -, rfl⟩ | ⟨-, rfl⟩ | ⟨rfl, rfl⟩
  · exact .inl ⟨w, rfl, hcmd⟩
  · exact .inr (.inl ⟨a, v, rfl⟩)
  · exact .inr (.inr (.inl rfl))
  rotate_right
  · exact .inr (.inr (.inr (.inl ⟨rfl, rfl⟩)))
  all_goals refine .inr (.inr (.inr (.inr ?_)))
  · rw [acceptCount_frame]
  · rfl
  · rw [txDone_frame]
  · rw [rxByte_frame]
  · rw [tickStep_frame]

/-- The function codes of an operation (44_rtu R233 to R235). -/
abbrev FunctionCode (op : RtuOp) (fc : BitVec 8) : Prop :=
  (op = .read → fc = 0x03 ∨ fc = 0x04) ∧ (op = .write → fc = 0x10)

/-- Every RTU command is `rtuCommand` of an operation and one of its function codes. -/
theorem exists_rtuCommand_of_exec {i : Instr} {s t : State} (hi : i ∈ rtuCommands) (h : exec i s = .next t) :
    ∃ op fc, FunctionCode op fc ∧ t = rtuCommand op fc s := by
  rcases exec_rtu hi h with ⟨-, ht⟩ | ⟨-, ht⟩ | ⟨-, ht⟩
  · exact ⟨_, _, by decide, ht⟩
  · exact ⟨_, _, by decide, ht⟩
  · exact ⟨_, _, by decide, ht⟩

/-- The parameters, which no step changes, and the model's list of steps, which `step` alone moves on. -/
def constants (s : State) : Params × List Event := (s.params, s.inbox)

theorem constants_of_exec {i : Instr} {s t : State} (h : exec i s = .next t) : constants t = constants s := by
  by_cases hi : i ∈ rtuCommands
  · obtain ⟨op, fc, -, rfl⟩ := exists_rtuCommand_of_exec hi h
    rcases rtuCommand_cases op fc s with ⟨-, h⟩ | ⟨-, -, h⟩ | ⟨-, -, h⟩ <;> rw [h] <;> rfl
  · rw [(exec_frame hi h).1]; rfl

theorem constants_of_runEvent {e : Event} {s t : State} (h : runEvent e s = .next t) : constants t = constants s := by
  rcases runEvent_frame h with ⟨w, -, hcmd⟩ | ⟨a, v, rfl⟩ | hread | ⟨-, rfl⟩ | hline
  · rcases runCommand_cases hcmd with ⟨-, rfl⟩ | ⟨i, -, -, hexec⟩ | ⟨i, -, -, hexec⟩
    · rfl
    · exact constants_of_exec hexec
    · exact constants_of_exec hexec
  · rw [(hostStore_frame a v s).1]; rfl
  · rw [hread]; rfl
  · rfl
  · rw [hline]; rfl

theorem params_of_runEvent {e : Event} {s t : State} (h : runEvent e s = .next t) : t.params = s.params :=
  congrArg Prod.fst (constants_of_runEvent h)

theorem inbox_of_runEvent {e : Event} {s t : State} (h : runEvent e s = .next t) : t.inbox = s.inbox :=
  congrArg Prod.snd (constants_of_runEvent h)

/-- The request of a transaction: the latches, the frame and its lengths (10_state R40, 44_rtu R231). -/
def request (s : State) : Latches × Memory 8 × BitVec 9 × BitVec 9 := (s.lat, s.txbuf, s.txlen, s.explen)

/-- The request changes at acceptance and at reset only (70_reset R322). -/
theorem request_of_runEvent {e : Event} {s t : State} (h : runEvent e s = .next t) :
    request t = request s ∨ e = .reset ∨ (s.framer = .idle ∧ t.framer = .txWrite ∧
      ∃ w, e = .hostWrite 0x004 4 w ∧ ∃ i ∈ rtuCommands, decode w = .ok i) := by
  rcases runEvent_frame h with ⟨w, rfl, hcmd⟩ | ⟨a, v, rfl⟩ | hread | ⟨rfl, -⟩ | hline
  · rcases runCommand_cases hcmd with ⟨-, rfl⟩ | ⟨i, -, hi, hexec⟩ | ⟨i, hdecode, hi, hexec⟩
    · exact .inl rfl
    · exact .inl (by rw [(exec_frame hi hexec).1]; rfl)
    · obtain ⟨op, fc, -, rfl⟩ := exists_rtuCommand_of_exec hi hexec
      rcases rtuCommand_cases op fc s with ⟨-, h⟩ | ⟨-, -, h⟩ | ⟨hidle, -, h⟩ <;> rw [h]
      · exact .inl rfl
      · exact .inl rfl
      · exact .inr (.inr ⟨hidle, rfl, w, rfl, i, hi, hdecode⟩)
  · exact .inl (by rw [(hostStore_frame a v s).1]; rfl)
  · exact .inl (by rw [hread]; rfl)
  · exact .inr (.inl rfl)
  · exact .inl (by rw [hline]; rfl)

end Sys2Proof.Machine
end

section
/-! SUPPORT. The invariant's clauses about the lengths, the running transaction and the buffers are kept by every operation
(spec/10_state.md rules R30 and R52, spec/44_rtu.md rules R224, R230, R231 and R246). -/

namespace Sys2Proof.Machine

/-- The clauses of the invariant beside the parameters, DIR and RES. -/
abbrev TransferLegal (s : State) : Prop := LengthsLegal s ∧ TransactionLegal s ∧ BuffersLegal s

/-- An idle framer has no transaction to be legal. -/
theorem transferLegal_of_idle {s : State} (hidle : s.framer = .idle) (hlengths : LengthsLegal s)
    (hbuffers : BuffersLegal s) : TransferLegal s :=
  ⟨hlengths, fun hbusy => absurd hidle hbusy, hbuffers⟩

/-- The request of an accepted command fits in TXBUF and in TXLEN (30_encoding R97, R99, 10_state R30). -/
theorem accept_txlen {s : State} {op : RtuOp} (fc : BitVec 8) (hp : s.params.wf)
    (hmax : s.count.toNat ≤ maxCount s.params op) :
    (accept op fc s).txlen.toNat = (match op with | .read => 8 | .write => 9 + 2 * s.count.toNat) ∧
      (accept op fc s).txlen.toNat ≤ 256 := by
  obtain ⟨-, ⟨-, hwrite⟩, -⟩ := hp
  have hlen : (accept op fc s).txlen = BitVec.ofNat 9 (requestFrame (loadLatches op fc s) s.wbuf).length := rfl
  rw [hlen, length_requestFrame, BitVec.toNat_ofNat]
  cases op with
  | read => exact ⟨rfl, (by decide : 8 ≤ 256)⟩
  | write =>
    have hcount : s.count.toNat ≤ 123 := hmax.trans hwrite
    simp only [loadLatches]
    omega

/-- The response of an accepted command fits in RXBUF and in EXPLEN (44_rtu R224, 10_state R30). -/
theorem accept_explen {s : State} {op : RtuOp} (fc : BitVec 8) (hp : s.params.wf)
    (hmax : s.count.toNat ≤ maxCount s.params op) :
    (accept op fc s).explen.toNat = expectedLength op s.count.toNat ∧ (accept op fc s).explen.toNat ≤ 256 := by
  obtain ⟨⟨-, hread⟩, -⟩ := hp
  have hlen : (accept op fc s).explen = BitVec.ofNat 9 (expectedLength op s.count.toNat) := rfl
  rw [hlen, BitVec.toNat_ofNat]
  cases op with
  | read =>
    have hcount : s.count.toNat ≤ 125 := hmax.trans hread
    rw [expectedLength]
    omega
  | write => exact ⟨rfl, (by decide : 8 ≤ 256)⟩

/-- Acceptance starts a legal transaction (44_rtu R231). -/
theorem transferLegal_accept {s : State} {op : RtuOp} {fc : BitVec 8} (hp : s.params.wf) (hs : BuffersLegal s)
    (hfc : FunctionCode op fc) (hargs : ArgumentsLegal s (maxCount s.params op)) : TransferLegal (accept op fc s) := by
  obtain ⟨hmin, hmax, hwindow, htimeout⟩ := hargs
  obtain ⟨hwbuf, htxbuf, hrxbuf⟩ := hs
  obtain ⟨htxlen, htxmax⟩ := accept_txlen fc hp hmax
  obtain ⟨hexplen, hexpmax⟩ := accept_explen fc hp hmax
  have hresponse : 0 < expectedLength op s.count.toNat := by cases op <;> simp [expectedLength]
  refine ⟨⟨htxmax, hexpmax, Nat.zero_le _⟩, fun _ => ⟨⟨hmin, hmax⟩, hwindow, htimeout, fun hop => ?_, fun hop => ?_,
    hexplen ▸ hresponse, fun _ => rfl⟩, hwbuf, Memory.writeList_wf htxbuf _ _, hrxbuf⟩
  · obtain rfl : op = .read := hop
    exact ⟨hfc.1 rfl, htxlen, hexplen⟩
  · obtain rfl : op = .write := hop
    exact ⟨hfc.2 rfl, htxlen, hexplen⟩

theorem transferLegal_exec {i : Instr} {s t : State} (hp : s.params.wf) (hs : TransferLegal s)
    (h : exec i s = .next t) : TransferLegal t := by
  obtain ⟨hlengths, htransaction, hbuffers⟩ := hs
  by_cases hi : i ∈ rtuCommands
  · obtain ⟨op, fc, hfc, rfl⟩ := exists_rtuCommand_of_exec hi h
    rcases rtuCommand_cases op fc s with ⟨-, h⟩ | ⟨-, -, h⟩ | ⟨-, hargs, h⟩ <;> rw [h]
    · exact ⟨hlengths, htransaction, hbuffers⟩
    · exact ⟨hlengths, htransaction, hbuffers⟩
    · exact transferLegal_accept hp hbuffers hfc hargs
  · obtain ⟨hframe, hwf⟩ := exec_frame hi h
    obtain ⟨hwbuf, htxbuf, hrxbuf⟩ := hbuffers
    rw [hframe]
    exact ⟨hlengths, htransaction, hwf hwbuf, htxbuf, hrxbuf⟩

/-- A response byte stored before the last one leaves the response within EXPLEN (44_rtu R246). -/
theorem transferLegal_storeRxByte {s : State} (b : Byte) (hs : TransferLegal s) (hrx : s.framer = .rx)
    (hmore : s.rxlen + 1 ≠ s.explen) : TransferLegal (storeRxByte b s) := by
  obtain ⟨⟨htxlen, hexplen, -⟩, htransaction, hwbuf, htxbuf, hrxbuf⟩ := hs
  obtain ⟨hcount, hwindow, helapsed, hread, hwrite, hrxlen, -⟩ := htransaction (by simp [hrx])
  have hnext : (s.rxlen + 1).toNat < s.explen.toNat := by bv_omega
  exact ⟨⟨htxlen, hexplen, hnext.le⟩,
    fun _ => ⟨hcount, hwindow, helapsed, hread, hwrite, hnext, fun hne => absurd hrx hne⟩,
    hwbuf, htxbuf, Memory.write_wf hrxbuf _ _⟩

theorem completeResponse_wbuf_wf {s : State} (h : Memory.wf Config.wbufWords s.wbuf) :
    Memory.wf Config.wbufWords (completeResponse s).wbuf := by
  rcases completeResponse_cases s with ⟨-, -, hc⟩ | ⟨-, hc⟩ <;> rw [hc]
  · exact Memory.writeList_wf h _ _
  · exact h

theorem transferLegal_rxByte {s : State} (b : Byte) (hs : TransferLegal s) : TransferLegal (rxByte b s) := by
  rcases rxByte_cases b s with ⟨-, h⟩ | ⟨hrx, hmore, h⟩ | ⟨-, hlast, h⟩ <;> rw [h]
  · exact hs
  · exact transferLegal_storeRxByte b hs hrx hmore
  · obtain ⟨⟨htxlen, hexplen, -⟩, -, hwbuf, htxbuf, hrxbuf⟩ := hs
    rw [completeResponse_frame]
    exact transferLegal_of_idle rfl ⟨htxlen, hexplen, (congrArg BitVec.toNat hlast).le⟩
      ⟨completeResponse_wbuf_wf hwbuf, htxbuf, Memory.write_wf hrxbuf _ _⟩

/-- A tick of a running transaction either leaves the deadline ahead or ends it (10_state R52). -/
theorem transferLegal_tickStep {s : State} (hs : TransferLegal s) : TransferLegal (tickStep s) := by
  rcases tickStep_cases s with ⟨-, h⟩ | ⟨hbusy, hbefore, h⟩ | ⟨-, -, h⟩ <;> rw [h]
  · exact hs
  · obtain ⟨hlengths, htransaction, hbuffers⟩ := hs
    obtain ⟨hcount, hwindow, -, hrest⟩ := htransaction hbusy
    exact ⟨hlengths, fun _ => ⟨hcount, hwindow, hbefore, hrest⟩, hbuffers⟩
  · obtain ⟨hlengths, -, hbuffers⟩ := hs
    exact transferLegal_of_idle rfl hlengths hbuffers

theorem transferLegal_acceptCount {s : State} (n : Nat) (hs : TransferLegal s) (hoffered : s.framer = .txWrite) :
    TransferLegal (acceptCount n s) := by
  obtain ⟨hlengths, htransaction, hbuffers⟩ := hs
  rcases acceptCount_cases n s with ⟨-, h⟩ | ⟨-, h⟩ <;> rw [h]
  · obtain ⟨hcount, hwindow, helapsed, hread, hwrite, hrxlen, hnone⟩ := htransaction (by simp [hoffered])
    exact ⟨hlengths,
      fun _ => ⟨hcount, hwindow, helapsed, hread, hwrite, hrxlen, fun _ => hnone (by simp [hoffered])⟩, hbuffers⟩
  · exact transferLegal_of_idle rfl hlengths hbuffers

theorem transferLegal_txDone {s : State} (hs : TransferLegal s) : TransferLegal (txDone s) := by
  rcases txDone_cases s with ⟨hwait, h⟩ | ⟨-, h⟩ <;> rw [h]
  · obtain ⟨hlengths, htransaction, hbuffers⟩ := hs
    obtain ⟨hcount, hwindow, helapsed, hread, hwrite, hrxlen, -⟩ := htransaction (by simp [hwait])
    exact ⟨hlengths, fun _ => ⟨hcount, hwindow, helapsed, hread, hwrite, hrxlen, fun hne => absurd rfl hne⟩, hbuffers⟩
  · exact hs

theorem transferLegal_resetStep (s : State) : TransferLegal (resetStep s) :=
  transferLegal_of_idle rfl ⟨Nat.zero_le _, Nat.zero_le _, Nat.zero_le _⟩
    ⟨⟨.nil, nofun⟩, ⟨.nil, nofun⟩, ⟨.nil, nofun⟩⟩

theorem transferLegal_of_runEvent {e : Event} {s t : State} (hp : s.params.wf) (hs : TransferLegal s)
    (h : runEvent e s = .next t) : TransferLegal t := by
  rcases runEvent_cases h with ⟨w, -, hcmd⟩ | ⟨a, v, -, -, -, -, rfl⟩ | ⟨a, -, -, -, rfl⟩ | ⟨n, -, hoffered, -, rfl⟩ |
    ⟨n, -, -, rfl⟩ | ⟨-, rfl⟩ | ⟨b, -, rfl⟩ | ⟨-, rfl⟩ | ⟨-, rfl⟩
  · rcases runCommand_cases hcmd with ⟨-, rfl⟩ | ⟨i, -, -, hexec⟩ | ⟨i, -, -, hexec⟩
    · exact hs
    · exact transferLegal_exec hp hs hexec
    · exact transferLegal_exec hp hs hexec
  · obtain ⟨hframe, hwf⟩ := hostStore_frame a v s
    obtain ⟨hlengths, htransaction, hwbuf, htxbuf, hrxbuf⟩ := hs
    rw [hframe]
    exact ⟨hlengths, htransaction, hwf hwbuf, htxbuf, hrxbuf⟩
  · exact hs
  · exact transferLegal_acceptCount n hs hoffered
  · exact hs
  · exact transferLegal_txDone hs
  · exact transferLegal_rxByte b hs
  · exact transferLegal_tickStep hs
  · exact transferLegal_resetStep s

/-- Every step of an agent keeps the invariant. -/
theorem inv_of_runEvent {e : Event} {s t : State} (hs : s.Inv) (h : runEvent e s = .next t) : t.Inv := by
  obtain ⟨hp, hdir, hres, htransfer⟩ := hs
  exact ⟨by rwa [params_of_runEvent h], dirLegal_of_runEvent hdir h, resLegal_of_runEvent hres h,
    transferLegal_of_runEvent hp htransfer h⟩

end Sys2Proof.Machine
end

section
/-! PROOF. The invariant, from reset and over every step, and the parameters (spec/70_reset_and_hazards.md rule R310,
spec/10_state.md rule R46). -/

open Sys2Proof.Machine

namespace Sys2Proof.Proofs

/-- Settles O57: the framer is idle and every register and buffer empty. -/
theorem resetStateLegal : Obligations.ResetStateLegal := by
  have htransfer : TransferLegal State.reset := transferLegal_resetStep State.reset
  exact ⟨⟨by decide, by decide, by decide, htransfer⟩, rfl, rfl, rfl⟩

/-- Settles O58: a step is one of an agent's, which keeps the invariant, on a state whose list or counter has moved on, of
which the invariant does not speak. -/
theorem stepKeepsInvariant : Obligations.StepKeepsInvariant := by
  intro s t hs hstep
  rcases step_cases hstep with ⟨e, rest, -, hrun⟩ | ⟨-, e, hrun⟩ | ⟨-, rfl⟩
  · exact inv_of_runEvent (s := { s with inbox := rest }) hs hrun
  · exact inv_of_runEvent (s := { s with drawIx := s.drawIx + 1 }) hs hrun
  · exact hs

/-- Settles O59: no step of an agent changes a parameter. -/
theorem paramsNeverChange : Obligations.ParamsNeverChange := by
  intro s t hstep
  rcases step_cases hstep with ⟨e, rest, -, hrun⟩ | ⟨-, e, hrun⟩ | ⟨-, rfl⟩
  · exact (params_of_runEvent hrun :)
  · exact (params_of_runEvent hrun :)
  · rfl

end Sys2Proof.Proofs
end

section
/-! SUPPORT. When a host access is defined, and what a command can answer (spec/20_memory.md rule R63,
spec/60_exceptions.md rule R283). -/

namespace Sys2Proof.Machine

theorem hostAccessOk_iff (a size : Nat) : hostAccessOk a size = true ↔ size = 4 ∧ a % 4 = 0 ∧ a ≤ 0xFFC := by
  simp only [hostAccessOk, Bool.and_eq_true, beq_iff_eq, decide_eq_true_eq, and_assoc]

theorem runEvent_cmdWrite (w : Word) (s : State) : runEvent (.hostWrite 0x004 4 w) s = runCommand w s := rfl

theorem runCommand_of_decode {w : Word} {i : Instr} (h : decode w = .ok i) (s : State) : runCommand w s = exec i s := by
  rw [runCommand, h]

theorem runEvent_hostRead {a : Nat} (haligned : a % 4 = 0) (hwindow : a ≤ 0xFFC) (s : State) :
    runEvent (.hostRead a 4) s = .next { s with hostRdata := hostLoad a s } :=
  if_pos ((hostAccessOk_iff a 4).2 ⟨rfl, haligned, hwindow⟩)

theorem codecSet_cres (de accepted : Bool) (L bits : Nat) (req old : Int) (s : State) :
    (codecSet de accepted L bits req old s).cres = .ok := by
  rw [codecSet_frame]

/-- A command other than the RTU commands leaves CRES at OK, or is a view or group command that reports ERR_ARG and does
nothing else (60_exceptions R283). -/
theorem exec_cres {i : Instr} {s t : State} (hi : i ∉ rtuCommands) (h : exec i s = .next t) :
    t.cres = .ok ∨
      ((i = .viewGet ∨ (∃ de, i = .viewSet de) ∨ i = .grpSetup) ∧ t = { s with cres := .errArg }) := by
  cases i with
  | nop | crcInit | crcByte | getBit | getUns | getSgn | getTemp => cases h; exact .inl rfl
  | setBit | setUns | setSgn | setTemp => cases h; exact .inl (codecSet_cres ..)
  | viewGet =>
    cases hrow : fieldRom s.fldSel with
    | none => cases (execViewGet_of_invalid hrow).symm.trans h; exact .inr ⟨.inl rfl, rfl⟩
    | some d => cases (execViewGet_of_row hrow).symm.trans h; exact .inl rfl
  | viewSet de =>
    cases hrow : fieldRom s.fldSel with
    | none => cases (execViewSet_of_invalid de hrow).symm.trans h; exact .inr ⟨.inr (.inl ⟨de, rfl⟩), rfl⟩
    | some d =>
      by_cases hrange : viewInRange d s = true
      · cases (execViewSet_of_inRange de hrow hrange).symm.trans h; exact .inl rfl
      · cases (execViewSet_of_outOfRange de hrow hrange).symm.trans h; exact .inl rfl
  | grpSetup =>
    by_cases hinvalid : ∀ g, groupOfSel s.grpSel = some g → g.perUnit && 63 < s.grpUnit.toNat
    · cases (execGrpSetup_of_invalid hinvalid).symm.trans h; exact .inr ⟨.inr (.inr rfl), rfl⟩
    · push Not at hinvalid
      obtain ⟨g, hgroup, hunit⟩ := hinvalid
      cases (execGrpSetup_of_group hgroup hunit).symm.trans h; exact .inl rfl
  | rtuRdHold | rtuRdInput | rtuWrMulti => simp [rtuCommands] at hi

/-- A byte that does not complete the response is stored (44_rtu R246). -/
theorem rxByte_of_more {s : State} (b : Byte) (hrx : s.framer = .rx) (hmore : s.rxlen.toNat + 1 < s.explen.toNat) :
    rxByte b s = storeRxByte b s := by
  rcases rxByte_cases b s with ⟨hdropped, -⟩ | ⟨-, -, h⟩ | ⟨-, hlast, -⟩
  · exact absurd hrx hdropped
  · exact h
  · bv_omega

theorem rxByte_outside_rx {s : State} (b : Byte) (hrx : s.framer ≠ .rx) : rxByte b s = s := if_neg hrx

end Sys2Proof.Machine
end

section
/-! PROOF. Steps, dispatch and the host's accesses (spec/10_state.md rule R50, spec/30_encoding.md rule R105,
spec/20_memory.md rule R63, spec/40_control.md rules R120 and R121, spec/60_exceptions.md rule R283). -/

open Sys2Proof Sys2Proof.Machine

namespace Sys2Proof.Proofs

/-- Settles O5: each word is one of its command's encoding. -/
theorem specWordsDecode : Obligations.SpecWordsDecode := by
  and_intros <;> rfl

/-- Settles O6: a CMD write is dispatched by its word alone. -/
theorem stepRunsDecodedCommand : Obligations.StepRunsDecodedCommand := by
  refine fun s rest => ⟨fun e he => step_cons he, fun w i he hi => ?_⟩
  rw [step_cons he, runEvent_cmdWrite, runCommand_of_decode hi]

/-- Settles O7: the steps that can be refused, a host access and an accept count, are enabled only where they are not. -/
theorem everyEnabledStepCompletes : Obligations.EveryEnabledStepCompletes := by
  have hevent : ∀ e s, eventEnabled e s = true → ∃ t, runEvent e s = .next t := by
    intro e s h
    cases e with
    | hostWrite a size v =>
      have hok : hostAccessOk a size = true := h
      rw [runEvent, if_pos hok]
      split
      · exact runCommand_next v s
      · exact ⟨_, rfl⟩
    | hostRead a size => exact ⟨_, if_pos h⟩
    | serAccept n =>
      simp only [eventEnabled, Bool.and_eq_true, beq_iff_eq, decide_eq_true_eq] at h
      exact ⟨_, (if_pos h.1).trans (if_pos h.2)⟩
    | serTxdone | serRxbyte | tick | reset => exact ⟨_, rfl⟩
  refine ⟨hevent, fun s hempty => ?_⟩
  simp only [step, hempty, runDraw]
  split
  · rename_i henabled
    exact hevent _ _ henabled
  · exact ⟨_, rfl⟩

/-- Settles O8: a defined access is a CMD write, a store or a load, none of which is refused. -/
theorem undefinedHostAccessRefused : Obligations.UndefinedHostAccessRefused := by
  intro a size v s
  rw [← hostAccessOk_iff]
  by_cases hok : hostAccessOk a size = true
  · have henabled := everyEnabledStepCompletes.1
    obtain ⟨t, hwrite⟩ := henabled (.hostWrite a size v) s hok
    obtain ⟨u, hread⟩ := henabled (.hostRead a size) s hok
    simp [hok, hwrite, hread]
  · simp [hok, runEvent]

/-- Settles O9: of the steps other than a CMD write and reset, none has CRES among the fields it can change. -/
theorem cresChangesOnlyByCommand : Obligations.CresChangesOnlyByCommand := by
  intro e s t hrun hcres
  rcases runEvent_frame hrun with ⟨w, rfl, -⟩ | ⟨a, v, rfl⟩ | hread | ⟨rfl, -⟩ | hline
  · exact .inr ⟨w, rfl⟩
  · exact absurd (by rw [(hostStore_frame a v s).1]) hcres
  · exact absurd (by rw [hread]) hcres
  · exact .inl rfl
  · exact absurd (by rw [hline]) hcres

/-- Settles O11: an RTU command is dropped, refused or accepted; another command has no RES among the fields it can
change and reports ERR_ARG only as the one thing it does. -/
theorem commandResultCodes : Obligations.CommandResultCodes := by
  intro i s t h
  by_cases hi : i ∈ rtuCommands
  · obtain ⟨op, fc, -, rfl⟩ := exists_rtuCommand_of_exec hi h
    rcases rtuCommand_cases op fc s with ⟨hbusy, h⟩ | ⟨-, -, h⟩ | ⟨-, -, h⟩ <;> rw [h]
    · exact ⟨.inr (.inr ⟨rfl, hi, hbusy⟩), fun _ => rfl, fun hn => absurd hi hn, fun _ => nofun⟩
    · exact ⟨.inl rfl, fun hn => absurd rfl hn, fun hn => absurd hi hn, fun _ _ => .inl ⟨rfl, rfl⟩⟩
    · exact ⟨.inl rfl, fun hn => absurd rfl hn, fun hn => absurd hi hn, fun _ _ => .inr ⟨rfl, rfl⟩⟩
  · have hres : t.res = s.res := by rw [(exec_frame hi h).1]
    rcases exec_cres hi h with hok | ⟨hview, rfl⟩
    · exact ⟨.inl hok, fun hn => absurd hok hn, fun _ => hres, fun hr => absurd hr hi⟩
    · exact ⟨.inr (.inl ⟨rfl, hview⟩), fun _ => rfl, fun _ => hres, fun hr => absurd hr hi⟩

end Sys2Proof.Proofs
end

section
/-! PROOF. The transaction's steps, and what a running transaction is isolated from (spec/44_rtu.md rules R242 to R250,
spec/40_control.md rule R124, spec/10_state.md rule R40). -/

open Sys2Proof.Machine

namespace Sys2Proof.Proofs

/-- Settles O37: the serial port's answer and transmit-complete have an effect in one state of the framer each. -/
theorem serialTransmitSteps : Obligations.SerialTransmitSteps := by
  intro s n
  have hanswer : s.framer = .txWrite → n ≤ s.txlen.toNat → runEvent (.serAccept n) s = .next (acceptCount n s) :=
    fun hoffered hn => (if_pos hoffered).trans (if_pos hn)
  have hdone : runEvent .serTxdone s = .next (txDone s) := rfl
  refine ⟨fun hoffered hn => ?_, fun hoffered hn => ?_, fun hne => if_neg hne, fun hwait => ?_, fun hne => ?_⟩
  · rw [hanswer hoffered hn.le]
    rcases acceptCount_cases n s with ⟨-, h⟩ | ⟨hne, -⟩
    · rw [h]
    · exact absurd hn hne
  · rw [hanswer hoffered hn.le]
    rcases acceptCount_cases n s with ⟨heq, -⟩ | ⟨-, h⟩
    · exact absurd heq hn.ne
    · rw [h]
  · rcases txDone_cases s with ⟨-, h⟩ | ⟨hne, -⟩
    · rw [hdone, h]
    · exact absurd hwait hne
  · rcases txDone_cases s with ⟨hwait, -⟩ | ⟨-, h⟩
    · exact absurd hwait hne
    · rw [hdone, h]

/-- Settles O39: a byte is dropped outside RX, and stored when it is not the last. -/
theorem receivedByteStored : Obligations.ReceivedByteStored := by
  intro s b
  have hrun : runEvent (.serRxbyte b) s = .next (rxByte b s) := rfl
  refine ⟨fun hne => by rw [hrun, rxByte_outside_rx b hne], fun hrx hmore hexplen => ?_⟩
  exact ⟨storeRxByte b s, by rw [hrun, rxByte_of_more b hrx hmore], rfl, read_storeRxByte b s (by omega)⟩

/-- Settles O46: of the framer's moves, four leave a running transaction idle. -/
theorem transactionEndsFourWays : Obligations.TransactionEndsFourWays := by
  intro e s t hbusy hrun hidle
  cases framerMove_of_runEvent hrun with
  | stays hsame =>
    obtain ⟨hframer, -⟩ := (framerControl_eq_iff s t).1 hsame
    exact absurd (hframer.symm.trans hidle) hbusy
  | refused w op h => exact absurd h hbusy
  | accepted w op fc h => exact absurd h hbusy
  | offerTaken | transmitted => cases hidle
  | offerCutShort n hoffered hshort => exact .inr (.inr (.inl ⟨n, rfl, hoffered, hshort, rfl⟩))
  | responseComplete b hrx hlast => exact .inl ⟨b, rfl, hrx, by simpa using hlast⟩
  | deadline _ hreached => exact .inr (.inl ⟨rfl, hreached, rfl⟩)
  | reset => exact .inr (.inr (.inr rfl))

/-- Settles O48: a step that is neither a host write nor reset changes WBUF only where it commits a read. -/
theorem failedTransactionKeepsWbuf : Obligations.FailedTransactionKeepsWbuf := by
  intro e s t hwrite hreset hrun hwbuf
  rcases runEvent_cases hrun with ⟨w, rfl, -⟩ | ⟨a, v, rfl, -⟩ | ⟨a, -, -, -, rfl⟩ | ⟨n, -, -, -, rfl⟩ |
    ⟨n, -, -, rfl⟩ | ⟨-, rfl⟩ | ⟨b, rfl, rfl⟩ | ⟨-, rfl⟩ | ⟨rfl, -⟩
  · exact absurd rfl (hwrite _ _ _)
  · exact absurd rfl (hwrite _ _ _)
  · exact absurd rfl hwbuf
  · exact absurd (by rw [acceptCount_frame]) hwbuf
  · exact absurd rfl hwbuf
  · exact absurd (by rw [txDone_frame]) hwbuf
  · rcases rxByte_cases b s with ⟨-, h⟩ | ⟨-, -, h⟩ | ⟨hrx, -, h⟩
    · exact absurd (by rw [h]) hwbuf
    · exact absurd (by rw [h, storeRxByte_wbuf]) hwbuf
    · rcases completeResponse_cases (storeRxByte b s) with ⟨-, hread, hc⟩ | ⟨-, hc⟩
      · rw [h, hc]
        exact ⟨⟨b, rfl⟩, hrx, hread, rfl, rfl⟩
      · exact absurd (by rw [h, hc, storeRxByte_wbuf]) hwbuf
  · exact absurd (by rw [tickStep_frame]) hwbuf
  · exact absurd rfl hreset

/-- Settles O49: a step that is neither reset nor an acceptance keeps the whole request. -/
theorem latchesIsolateTransaction : Obligations.LatchesIsolateTransaction := by
  intro e s t hrun hchanged
  refine (request_of_runEvent hrun).resolve_left fun hsame => ?_
  simp only [request, Prod.mk.injEq] at hsame
  tauto

end Sys2Proof.Proofs
end

section
/-! SUPPORT. Runs of the machine: one step more, and one run after another. -/

namespace Sys2Proof.Machine

theorem run_succ {s u : State} (h : step s = .next u) (k : Nat) : core.run (k + 1) s = core.run k u := by
  have hstep : core.step s = .next u := h
  simp only [Host.Core.run, hstep]

/-- A run of one step more that ends in a state has taken a step to a state. -/
theorem exists_step_of_run {k : Nat} {s t : State} (h : core.run (k + 1) s = .next t) :
    ∃ u, step s = .next u ∧ core.run k u = .next t := by
  cases hstep : step s with
  | next u => exact ⟨u, rfl, run_succ hstep k ▸ h⟩
  | fault r => cases r
  | refused r =>
    have hstep : core.step s = .refused r := hstep
    simp only [Host.Core.run, hstep] at h
    cases h

/-- A run goes on from where a shorter one ended. -/
theorem run_add {m : Nat} {s u : State} (h : core.run m s = .next u) (k : Nat) :
    core.run (m + k) s = core.run k u := by
  induction m generalizing s with
  | zero => cases h; rw [Nat.zero_add]
  | succ m ih =>
    obtain ⟨v, hstep, hrun⟩ := exists_step_of_run h
    rw [Nat.add_right_comm, run_succ hstep, ih hrun]

end Sys2Proof.Machine
end

section
/-! SUPPORT. The shifts of the CRC: a low byte of zeros is shifted out, a frame's own CRC bytes bring the CRC to 0, and no
two values have one CRC step (spec/43_crc.md rules R200 to R202). -/

namespace Sys2Proof.Machine

/-- Low bits that are 0 are shifted out and feed nothing back. -/
theorem crcShift_of_clear {n : Nat} {c : BitVec 16} (h : ∀ i < n, c.getLsbD i = false) : crcShift n c = c >>> n := by
  induction n generalizing c with
  | zero => rfl
  | succ n ih =>
    have hnext : ∀ i < n, (c >>> 1).getLsbD i = false := fun i hi => by
      rw [BitVec.getLsbD_ushiftRight]
      exact h _ (by omega)
    have hlow : ¬ c.getLsbD 0 = true := Bool.not_eq_true _ ▸ h 0 n.succ_pos
    rw [crcShift, if_neg hlow, ih hnext, Nat.add_comm, BitVec.shiftRight_add]

/-- The low byte of the CRC leaves the high byte of it (43_crc R202). -/
theorem crcStep_lowByte (c : BitVec 16) : crcStep c (lowByte c) = (highByte c).setWidth 16 := by
  have hclear : ∀ i < 8, (c ^^^ (lowByte c).setWidth 16).getLsbD i = false := fun i hi => by
    have : i < 16 := by omega
    simp [*]
  rw [crcStep, crcShift_of_clear hclear]
  refine BitVec.eq_of_getLsbD_eq fun i hi => ?_
  by_cases hlow : i < 8
  · simp [hlow, hi]
  · have hzero : c.getLsbD (8 + i) = false := BitVec.getLsbD_of_ge _ _ (by omega)
    simp [hlow, hzero]

/-- A byte meets itself in the CRC. -/
theorem crcStep_self (b : Byte) : crcStep (b.setWidth 16) b = 0 := by
  rw [crcStep, BitVec.xor_self, crcShift_of_clear (by simp)]
  rfl

/-- One shift of the CRC (43_crc R200). -/
def crcShiftOne (c : BitVec 16) : BitVec 16 := if c.getLsbD 0 then (c >>> 1) ^^^ 0xA001#16 else c >>> 1

theorem crcShift_succ (n : Nat) (c : BitVec 16) : crcShift (n + 1) c = crcShift n (crcShiftOne c) := rfl

/-- The bit shifted out stands in the top bit of the polynomial. -/
theorem getLsbD_crcShiftOne_top (c : BitVec 16) : (crcShiftOne c).getLsbD 15 = c.getLsbD 0 := by
  unfold crcShiftOne
  cases h : c.getLsbD 0 <;> simp

theorem crcShiftOne_injective : Function.Injective crcShiftOne := by
  intro c d h
  have hlow : c.getLsbD 0 = d.getLsbD 0 := by
    rw [← getLsbD_crcShiftOne_top, h, getLsbD_crcShiftOne_top]
  have hhigh : c >>> 1 = d >>> 1 := by
    unfold crcShiftOne at h
    rw [hlow] at h
    split at h
    · exact (BitVec.xor_left_inj _).1 h
    · exact h
  refine BitVec.eq_of_getLsbD_eq fun i hi => ?_
  cases i with
  | zero => exact hlow
  | succ i => simpa [Nat.add_comm] using congrArg (·.getLsbD i) hhigh

theorem crcShift_injective (n : Nat) : Function.Injective (crcShift n) := by
  induction n with
  | zero => exact Function.injective_id
  | succ n ih => exact ih.comp crcShiftOne_injective

theorem crcStep_left_injective (x : Byte) : Function.Injective (crcStep · x) := fun c d h => by
  simpa using crcShift_injective 8 h

theorem crcStep_right_injective (c : BitVec 16) : Function.Injective (crcStep c) := fun x y h => by
  have hwide : x.setWidth 16 = y.setWidth 16 := by simpa using crcShift_injective 8 h
  simpa using congrArg (BitVec.setWidth 8) hwide

theorem foldl_crcStep_injective (xs : List Byte) : Function.Injective (xs.foldl crcStep) := by
  induction xs with
  | nil => exact Function.injective_id
  | cons x xs ih => exact ih.comp (crcStep_left_injective x)

end Sys2Proof.Machine
end

section
/-! SUPPORT. A body delivered to the CRC engine by CMD writes (spec/43_crc.md rule R204). -/

namespace Sys2Proof.Machine

/-- The CMD write of CRC_BYTE of `b`. -/
def crcByteWrite (b : Byte) : Event := .hostWrite 0x004 4 (BitVec.ofNat 32 (0x10000 * b.toNat + 0x0002))

theorem step_crcByteWrite {s : State} {b : Byte} {es : List Event} (h : s.inbox = crcByteWrite b :: es) :
    step s = .next { s with inbox := es, cres := .ok, crc := crcStep s.crc b } := by
  rw [step_cons h, crcByteWrite, runEvent_cmdWrite, runCommand_of_decode (decode_crcByte_word b), exec_crcByte]

theorem run_crcByteWrites {body : List Byte} {rest : List Event} {s : State}
    (h : s.inbox = body.map crcByteWrite ++ rest) (hok : s.cres = .ok) :
    core.run body.length s = .next { s with inbox := rest, crc := body.foldl crcStep s.crc } := by
  induction body generalizing s with
  | nil =>
    obtain rfl : s.inbox = rest := h
    rfl
  | cons b body ih =>
    rw [List.length_cons, run_succ (step_crcByteWrite h), ih rfl rfl, List.foldl_cons, ← hok]

end Sys2Proof.Machine
end

section
/-! PROOF. The CRC of bodies and frames (spec/43_crc.md rules R201 to R205). -/

open Sys2Proof Sys2Proof.Machine

namespace Sys2Proof.Proofs

/-- Settles O14: CRC_INIT starts the CRC of the empty body, and each CRC_BYTE takes one byte more. -/
theorem crcOfBodyByCommands : Obligations.CrcOfBodyByCommands := by
  refine ⟨fun body s rest h => ?_, fun _ => rfl, by decide +kernel, by decide +kernel⟩
  have hinit : step s = .next { s with
      inbox := body.map crcByteWrite ++ rest, cres := .ok, crc := 0xFFFF } := by
    rw [step_cons h, runEvent_cmdWrite, runCommand_of_decode (i := .crcInit) rfl]
    rfl
  rw [run_succ hinit, run_crcByteWrites rfl rfl]
  rfl

/-- Settles O15: the two CRC bytes shift the CRC out. -/
theorem frameResidueZero : Obligations.FrameResidueZero := by
  intro body
  rw [crc16_append, List.foldl_cons, List.foldl_cons, List.foldl_nil, crcStep_lowByte, crcStep_self]

/-- Settles O16: the CRC step is injective in the byte and in the CRC so far. -/
theorem crcSeesOneByteChange : Obligations.CrcSeesOneByteChange := by
  intro xs ys x x' hne h
  rw [crc16_append, crc16_append, List.foldl_cons, List.foldl_cons] at h
  exact hne (crcStep_right_injective _ (foldl_crcStep_injective ys h))

end Sys2Proof.Proofs
end

section
/-! SUPPORT. The deadline of a running transaction, tick by tick and over any other step (spec/10_state.md rule R52,
spec/44_rtu.md rule R253). -/

namespace Sys2Proof.Machine

theorem runEvent_tick (s : State) : runEvent .tick s = .next (tickStep s) := rfl

/-- A tick before the deadline counts (10_state R52). -/
theorem tickStep_of_before {s : State} (hbusy : s.framer ≠ .idle)
    (hbefore : s.elapsed.toNat + 1 < s.lat.timeout.toNat) : tickStep s = { s with elapsed := s.elapsed + 1 } := by
  have hnext := elapsedNext_toNat s.elapsed
  have htimeout := s.lat.timeout.isLt
  have hcount : elapsedNext s.elapsed = s.elapsed + 1 := by bv_omega
  rcases tickStep_cases s with ⟨hidle, -⟩ | ⟨-, -, h⟩ | ⟨-, hreached, -⟩
  · exact absurd hidle hbusy
  · rw [h, hcount]
  · omega

/-- The tick at the deadline ends the transaction (10_state R52). -/
theorem tickStep_of_reached {s : State} (hbusy : s.framer ≠ .idle)
    (hreached : s.elapsed.toNat + 1 = s.lat.timeout.toNat) :
    tickStep s = { s with elapsed := s.lat.timeout, dir := 0, framer := .idle, res := .errTimeout } := by
  have hnext := elapsedNext_toNat s.elapsed
  have htimeout := s.lat.timeout.isLt
  have hcount : elapsedNext s.elapsed = s.lat.timeout := by bv_omega
  rcases tickStep_cases s with ⟨hidle, -⟩ | ⟨-, hbefore, -⟩ | ⟨-, -, h⟩
  · exact absurd hidle hbusy
  · rw [hcount] at hbefore
    exact absurd hbefore (lt_irrefl _)
  · rw [h, hcount]

/-- Ticks alone, before the deadline, count and change nothing else. -/
theorem run_ticks {n : Nat} {rest : List Event} {s : State} (hbusy : s.framer ≠ .idle)
    (hinbox : s.inbox = List.replicate n .tick ++ rest) (hbefore : s.elapsed.toNat + n < s.lat.timeout.toNat) :
    core.run n s = .next { s with inbox := rest, elapsed := s.elapsed + BitVec.ofNat 16 n } := by
  induction n generalizing s with
  | zero =>
    obtain rfl : s.inbox = rest := hinbox
    rw [BitVec.add_zero]
    rfl
  | succ n ih =>
    have htimeout := s.lat.timeout.isLt
    have hnext : s.elapsed.toNat + 1 < s.lat.timeout.toNat := by omega
    have hstep : step s = .next { s with inbox := List.replicate n .tick ++ rest, elapsed := s.elapsed + 1 } :=
      (step_cons hinbox).trans <| congrArg _ <|
        tickStep_of_before (s := { s with inbox := List.replicate n .tick ++ rest }) hbusy hnext
    have hcount : (s.elapsed + 1).toNat = s.elapsed.toNat + 1 := by bv_omega
    have hsum : s.elapsed + 1 + BitVec.ofNat 16 n = s.elapsed + BitVec.ofNat 16 (n + 1) := by
      rw [BitVec.add_assoc, BitVec.ofNat_add, BitVec.add_comm (BitVec.ofNat 16 n)]
      rfl
    have hleft : (s.elapsed + 1).toNat + n < s.lat.timeout.toNat := by omega
    rw [run_succ hstep, ← hsum]
    exact ih (s := { s with inbox := List.replicate n .tick ++ rest, elapsed := s.elapsed + 1 }) hbusy rfl hleft

/-- While a transaction runs, no step but a tick and reset changes ELAPSED (10_state R29). -/
theorem elapsed_of_runEvent {e : Event} {s t : State} (hbusy : s.framer ≠ .idle) (htick : e ≠ .tick)
    (hreset : e ≠ .reset) (h : runEvent e s = .next t) : t.elapsed = s.elapsed := by
  rcases runEvent_cases h with ⟨w, -, hcmd⟩ | ⟨a, v, -, -, -, -, rfl⟩ | ⟨a, -, -, -, rfl⟩ | ⟨n, -, -, -, rfl⟩ |
    ⟨n, -, -, rfl⟩ | ⟨-, rfl⟩ | ⟨b, -, rfl⟩ | ⟨rfl, -⟩ | ⟨rfl, -⟩
  · rcases runCommand_cases hcmd with ⟨-, rfl⟩ | ⟨i, -, hi, hexec⟩ | ⟨i, -, hi, hexec⟩
    · rfl
    · rw [(exec_frame hi hexec).1]
    · cases (exec_rtu_busy hi hbusy).symm.trans hexec
      rfl
  · rw [(hostStore_frame a v s).1]
  · rfl
  · rw [acceptCount_frame]
  · rfl
  · rw [txDone_frame]
  · rw [rxByte_frame]
  · exact absurd rfl htick
  · exact absurd rfl hreset

/-- The latched timeout of a running transaction stands until reset (10_state R40). -/
theorem timeout_of_runEvent {e : Event} {s t : State} (hbusy : s.framer ≠ .idle) (hreset : e ≠ .reset)
    (h : runEvent e s = .next t) : t.lat.timeout = s.lat.timeout := by
  rcases request_of_runEvent h with hsame | hr | ⟨hidle, -⟩
  · exact congrArg (fun r => r.1.timeout) hsame
  · exact absurd hr hreset
  · exact absurd hidle hbusy

/-- A step that leaves a transaction running leaves as many ticks to its deadline, or one less when it is a tick. -/
theorem deadline_of_runEvent {e : Event} {s t : State} (hbusy : s.framer ≠ .idle)
    (hstill : t.framer ≠ .idle) (h : runEvent e s = .next t) :
    t.lat.timeout = s.lat.timeout ∧ t.elapsed.toNat = s.elapsed.toNat + [e].count .tick := by
  have hreset : e ≠ .reset := by
    rintro rfl
    cases h
    exact hstill rfl
  refine ⟨timeout_of_runEvent hbusy hreset h, ?_⟩
  by_cases htick : e = .tick
  · subst htick
    cases h
    have hnext := elapsedNext_toNat s.elapsed
    have htimeout := s.lat.timeout.isLt
    rcases tickStep_cases s with ⟨hidle, -⟩ | ⟨-, hbefore, ht⟩ | ⟨-, -, ht⟩
    · exact absurd hidle hbusy
    · have hcount : (elapsedNext s.elapsed).toNat = s.elapsed.toNat + 1 := by omega
      rw [ht, List.count_singleton_self, hcount]
    · rw [ht] at hstill
      exact absurd rfl hstill
  · rw [elapsed_of_runEvent hbusy htick hreset h]
    simp [htick]

/-- In a run with the ticks left to the deadline, the framer is idle at some point. -/
theorem exists_idle_of_run {es rest : List Event} {s t : State} (hinv : s.Inv) (hbusy : s.framer ≠ .idle)
    (hinbox : s.inbox = es ++ rest) (hticks : s.lat.timeout.toNat ≤ s.elapsed.toNat + es.count .tick)
    (hrun : core.run es.length s = .next t) :
    ∃ k u, k ≤ es.length ∧ core.run k s = .next u ∧ u.framer = .idle := by
  induction es generalizing s with
  | nil =>
    obtain ⟨-, -, -, -, htransaction, -⟩ := hinv
    obtain ⟨-, -, hbefore, -⟩ := htransaction hbusy
    exact absurd hticks (by simpa using hbefore)
  | cons e es ih =>
    obtain ⟨u, hstep, hrest⟩ := exists_step_of_run hrun
    by_cases hidle : u.framer = .idle
    · exact ⟨1, u, by simp, run_succ hstep 0, hidle⟩
    · have hevent := (step_cons hinbox).symm.trans hstep
      obtain ⟨htimeout, helapsed⟩ := deadline_of_runEvent (s := { s with inbox := es ++ rest }) hbusy hidle hevent
      have hcount : (e :: es).count .tick = [e].count .tick + es.count .tick := List.count_append (l₁ := [e])
      have hleft : u.lat.timeout.toNat ≤ u.elapsed.toNat + es.count .tick := by
        rwa [htimeout, helapsed, Nat.add_assoc, ← hcount]
      obtain ⟨k, v, hk, hrunk, hv⟩ := ih (inv_of_runEvent (s := { s with inbox := es ++ rest }) hinv hevent) hidle
        (inbox_of_runEvent hevent) hleft hrest
      exact ⟨k + 1, v, by simpa using hk, (run_succ hstep k).trans hrunk, hv⟩

end Sys2Proof.Machine
end

section
/-! PROOF. The deadline (spec/44_rtu.md rule R253). -/

open Sys2Proof.Machine

namespace Sys2Proof.Proofs

/-- Settles O43: ticks before the deadline count, and the one at the deadline ends the transaction. -/
theorem silenceEndsInTimeout : Obligations.SilenceEndsInTimeout := by
  intro s n rest hinv hbusy hinbox hdeadline
  obtain ⟨-, -, -, -, htransaction, -⟩ := hinv
  obtain ⟨-, -, hbefore, -⟩ := htransaction hbusy
  have htimeout := s.lat.timeout.isLt
  have hcount : ∀ k < n, (s.elapsed + BitVec.ofNat 16 k).toNat = s.elapsed.toNat + k := fun k hk => by
    rw [BitVec.toNat_add, BitVec.toNat_ofNat]
    omega
  have hrunning : ∀ k < n, core.run k s = .next { s with
      inbox := List.replicate (n - k) .tick ++ rest, elapsed := s.elapsed + BitVec.ofNat 16 k } := fun k hk => by
    refine run_ticks hbusy ?_ (by omega)
    rw [hinbox, ← List.append_assoc, List.replicate_append_replicate, Nat.add_sub_cancel' hk.le]
  refine ⟨?_, fun k hk => ⟨_, hrunning k hk, rfl, hcount k hk⟩⟩
  obtain ⟨m, rfl⟩ : ∃ m, n = m + 1 := Nat.exists_eq_add_one.2 (by omega)
  have hlast := hrunning m m.lt_succ_self
  rw [Nat.add_sub_cancel_left] at hlast
  have hreached : (s.elapsed + BitVec.ofNat 16 m).toNat + 1 = s.lat.timeout.toNat := by
    rw [hcount m m.lt_succ_self]
    omega
  rw [run_add hlast]
  exact run_succ ((step_cons rfl).trans (congrArg _ (tickStep_of_reached
    (s := { s with inbox := rest, elapsed := s.elapsed + BitVec.ofNat 16 m }) hbusy hreached))) 0

/-- Settles O44: each tick of the run brings the deadline one nearer, no other step moves it, and before it the count is
below the timeout. -/
theorem deadlineBoundsTransaction : Obligations.DeadlineBoundsTransaction :=
  fun _ _ _ _ hinv hbusy hinbox hticks hrun => exists_idle_of_run hinv hbusy hinbox hticks hrun

end Sys2Proof.Proofs
end

section
/-! SUPPORT. A whole response in RXBUF: a run of cells in parts, the words of a run of bytes, and the verdict on a correct
read response (spec/20_memory.md rules R66 and R67, spec/44_rtu.md rules R248 and R250). -/

namespace Sys2Proof.Machine

theorem Memory.readList_add {w : Nat} (m : Memory w) (i a b : Nat) :
    Memory.readList m i (a + b) = Memory.readList m i a ++ Memory.readList m (i + a) b := by
  induction a generalizing i with
  | zero => rw [Nat.zero_add]; rfl
  | succ a ih =>
    rw [Nat.add_right_comm, Memory.readList, ih, Nat.add_right_comm i 1, Nat.add_assoc i, Memory.readList,
      List.cons_append]

/-- A run of cells that holds one list after another holds each of them in a part of its own. -/
theorem Memory.readList_eq_append {w : Nat} {m : Memory w} {i a b : Nat} {xs ys : List (BitVec w)} (ha : xs.length = a)
    (h : Memory.readList m i (a + b) = xs ++ ys) :
    Memory.readList m i a = xs ∧ Memory.readList m (i + a) b = ys := by
  rw [Memory.readList_add] at h
  exact List.append_inj h (by simp [ha])

/-- The two bytes of a 16-bit value, put together again (20_memory R66, 43_crc R202). -/
theorem toNat_lowByte_add_highByte (v : BitVec 16) : (lowByte v).toNat + 256 * (highByte v).toNat = v.toNat := by
  rw [BitVec.extractLsb'_toNat, BitVec.extractLsb'_toNat, Nat.shiftRight_eq_div_pow, Nat.shiftRight_eq_div_pow]
  have := v.isLt
  omega

theorem wordOfBytes_highByte_lowByte (v : RegWord) : wordOfBytes (highByte v) (lowByte v) = v := by
  rw [wordOfBytes_eq, Nat.add_comm, Nat.mul_comm, toNat_lowByte_add_highByte, BitVec.ofNat_toNat, BitVec.setWidth_eq]

/-- The words of a run of bytes are those the bytes were made of (20_memory R66, R67). -/
theorem wordOfBytes_of_readList {m : Memory 8} {ws : List RegWord} {i : Nat}
    (h : Memory.readList m i (2 * ws.length) = dataBytes ws) (k : Nat) (hk : k < ws.length) :
    wordOfBytes (Memory.read m (i + 2 * k)) (Memory.read m (i + 1 + 2 * k)) = ws[k] := by
  induction ws generalizing i k with
  | nil => cases hk
  | cons v ws ih =>
    have hcells : Memory.read m i :: Memory.read m (i + 1) :: Memory.readList m (i + 2) (2 * ws.length) =
        highByte v :: lowByte v :: dataBytes ws := h
    simp only [List.cons.injEq] at hcells
    obtain ⟨hhigh, hlow, hrest⟩ := hcells
    cases k with
    | zero => rw [Nat.mul_zero, Nat.add_zero, Nat.add_zero, hhigh, hlow, wordOfBytes_highByte_lowByte]; rfl
    | succ k =>
      rw [List.getElem_cons_succ, ← ih hrest k (by simpa using hk)]
      congr 2 <;> omega

/-- The body of the correct response to a read that brings the words `ws` (30_encoding R98). -/
def readResponseBody (l : Latches) (ws : List RegWord) : List Byte :=
  [l.slave, l.fc, BitVec.ofNat 8 (2 * ws.length)] ++ dataBytes ws

theorem length_readResponseBody (l : Latches) (ws : List RegWord) :
    (readResponseBody l ws).length = 3 + 2 * ws.length := by
  rw [readResponseBody, List.length_append, length_dataBytes]
  rfl

section
variable {s : State} {ws : List RegWord} (hlen : ws.length = s.lat.count.toNat)
  (hrx : Memory.readList s.rxbuf 0 (3 + 2 * ws.length + 2) = withCrc (readResponseBody s.lat ws))
include hlen hrx

/-- A correct read response passes the framing check and the CRC check (44_rtu R248). -/
theorem validateRead_of_response (hmax : ws.length ≤ 125) : validateRead s = .ok := by
  obtain ⟨hbody, hcrc⟩ := Memory.readList_eq_append (length_readResponseBody s.lat ws) hrx
  obtain ⟨hheader, -⟩ := Memory.readList_eq_append (a := 3) rfl hbody
  simp only [Memory.readList, List.cons.injEq, Nat.zero_add, and_true] at hheader hcrc
  obtain ⟨hslave, hfc, hcount⟩ := hheader
  obtain ⟨hlow, hhigh⟩ := hcrc
  have hbytes : (BitVec.ofNat 8 (2 * ws.length)).toNat = 2 * s.lat.count.toNat := by
    rw [BitVec.toNat_ofNat, ← hlen]
    omega
  have hframe : readFrameOk s = true := by
    simp only [readFrameOk, rxByteAt, hslave, hfc, hcount, hbytes, beq_self_eq_true, Bool.and_self]
  have hmatch : crcMatches s (3 + 2 * s.lat.count.toNat) = true := by
    rw [crcMatches, rxByteAt, rxByteAt, ← hlen, hbody, hlow, hhigh, toNat_lowByte_add_highByte]
    exact beq_self_eq_true _
  rw [validateRead, hframe, hmatch]
  rfl

/-- The data words of a correct read response (44_rtu R250). -/
theorem responseWords_of_response : (List.range s.lat.count.toNat).map (responseWord s) = ws := by
  obtain ⟨hbody, -⟩ := Memory.readList_eq_append (length_readResponseBody s.lat ws) hrx
  obtain ⟨-, hdata⟩ := Memory.readList_eq_append (a := 3) rfl hbody
  refine List.ext_getElem (by simp [hlen]) fun k _ hk => ?_
  rw [List.getElem_map, List.getElem_range]
  exact wordOfBytes_of_readList hdata k hk

/-- A correct read response ends the transaction with OK and its words in the window (44_rtu R250). -/
theorem completeResponse_of_response (hmax : ws.length ≤ 125) (hop : s.lat.op = .read) : completeResponse s = { s with
    framer := .idle, res := .ok,
    wbuf := Memory.writeList Config.wbufWords s.wbuf s.lat.xbase.toNat ws } := by
  have hok : validate s = .ok := (validate_of_read hop).trans (validateRead_of_response hlen hrx hmax)
  rcases completeResponse_cases s with ⟨-, -, h⟩ | ⟨hbad, -⟩
  · rw [h, commitRead, responseWords_of_response hlen hrx]
  · exact absurd ⟨hok, hop⟩ hbad

end

/-- Bytes that arrive in RX up to the expected length stand in RXBUF from RXLEN up, and the last one completes the
response (44_rtu R246). -/
theorem run_response {ys : List Byte} {rest : List Event} {s : State} (hrx : s.framer = .rx) (hne : ys ≠ [])
    (hinbox : s.inbox = ys.map .serRxbyte ++ rest) (hlen : s.rxlen.toNat + ys.length = s.explen.toNat) :
    core.run ys.length s = .next (completeResponse { s with
      inbox := rest, rxlen := s.explen, rxbuf := Memory.writeList Config.rtuBufBytes s.rxbuf s.rxlen.toNat ys }) := by
  induction ys generalizing s with
  | nil => exact absurd rfl hne
  | cons b ys ih =>
    by_cases hlast : ys = []
    · subst hlast
      have hrxlen : s.rxlen + 1 = s.explen := by
        rw [List.length_singleton] at hlen
        bv_omega
      have hstep := (step_cons hinbox).trans (runEvent_serRxbyte_of_last (s := { s with inbox := rest }) b hrx hlen)
      rw [List.length_singleton, run_succ hstep 0, storeRxByte, hrxlen]
      rfl
    · have hmore : s.rxlen.toNat + 1 < s.explen.toNat := by
        have := List.length_pos_of_ne_nil hlast
        rw [List.length_cons] at hlen
        omega
      have hnext : (s.rxlen + 1).toNat = s.rxlen.toNat + 1 := by bv_omega
      have hleft : (s.rxlen + 1).toNat + ys.length = s.explen.toNat := by
        rw [← hlen, hnext, List.length_cons]
        omega
      have hstep : step s = .next (storeRxByte b { s with inbox := ys.map .serRxbyte ++ rest }) :=
        (step_cons hinbox).trans <| congrArg _ <|
          rxByte_of_more (s := { s with inbox := ys.map .serRxbyte ++ rest }) b hrx hmore
      rw [List.length_cons, run_succ hstep,
        ih (s := storeRxByte b { s with inbox := ys.map .serRxbyte ++ rest }) hrx hlast rfl hleft]
      simp only [storeRxByte, hnext, Memory.writeList]

end Sys2Proof.Machine
end

section
/-! PROOF. A correct read response, byte by byte (spec/44_rtu.md rules R246 to R250). -/

open Sys2Proof.Machine

namespace Sys2Proof.Proofs

/-- Settles O42: the bytes fill RXBUF with the whole response, which passes both checks, and its words are committed. -/
theorem goodReadResponseCommits : Obligations.GoodReadResponseCommits := by
  intro s ws rest hinv hrx hop hstart hlen body frame hinbox
  obtain ⟨⟨⟨-, hmaxRead⟩, -⟩, -, -, -, htransaction, -⟩ := hinv
  obtain ⟨⟨-, hmax⟩, hwindow, -, hread, -⟩ := htransaction (by simp [hrx])
  obtain ⟨-, -, hexplen⟩ := hread hop
  have hcount : ws.length ≤ 125 := by
    rw [hlen]
    rw [hop] at hmax
    exact hmax.trans hmaxRead
  have hframe : frame = withCrc (readResponseBody s.lat ws) := rfl
  have hframeLen : frame.length = 3 + 2 * ws.length + 2 := by
    rw [hframe, length_withCrc, length_readResponseBody]
  have hfits : frame.length ≤ Config.rtuBufBytes := by
    rw [hframeLen]
    exact Nat.le_trans (by omega) (by decide : 255 ≤ 256)
  have harrived : s.rxlen.toNat + frame.length = s.explen.toNat := by
    rw [hstart, hframeLen, hexplen, BitVec.ofNat_eq_ofNat, BitVec.toNat_zero]
    omega
  have hrxbuf := Memory.readList_writeList s.rxbuf 0 frame ((Nat.zero_add _).trans_le hfits)
  have hresponse := hframeLen ▸ hrxbuf
  have hrun := (run_response hrx (by simp [frame]) hinbox harrived).trans
    (congrArg _ (completeResponse_of_response (ws := ws) hlen (by rw [hstart]; exact hresponse) hcount hop))
  refine ⟨_, hrun, rfl, by rw [hstart]; exact hrxbuf, fun j => ?_⟩
  have hinside : s.lat.xbase.toNat ≤ j ∧ j < s.lat.xbase.toNat + ws.length ↔
      s.lat.xbase.toNat ≤ j ∧ j - s.lat.xbase.toNat < ws.length := by omega
  refine (Memory.read_writeList _ _ _ (by rw [hlen]; exact hwindow) j).trans ?_
  exact dite_congr (propext hinside) (fun _ => rfl) fun _ => rfl

end Sys2Proof.Proofs
end

section
/-! SUPPORT. What a codec primitive and a framer step do not read: each does the same to the rest of the state whatever
those fields hold (spec/41_codec.md rule R130, spec/44_rtu.md rule R222). -/

namespace Sys2Proof.Machine

/-! The codec primitives and the framer -/

theorem codecSet_withFramerOf (de accepted : Bool) (L bits : Nat) (req old : Int) (s u : State) :
    codecSet de accepted L bits req old (withFramerOf s u) =
      withFramerOf (codecSet de accepted L bits req old s) u := by
  unfold codecSet
  split <;> rfl

/-! The framer and the CRC register -/

theorem rtuCommand_of_busy {s : State} (op : RtuOp) (fc : BitVec 8) (hbusy : s.framer ≠ .idle) :
    rtuCommand op fc s = { s with cres := .busyRej } :=
  if_pos ((busy_iff s).2 hbusy)

theorem rtuCommand_with_crc (op : RtuOp) (fc : BitVec 8) (s : State) (c : BitVec 16) :
    rtuCommand op fc { s with crc := c } = { rtuCommand op fc s with crc := c } := by
  rcases rtuCommand_cases op fc s with ⟨hbusy, h⟩ | ⟨hidle, hargs, h⟩ | ⟨hidle, hargs, h⟩ <;> rw [h]
  · exact rtuCommand_of_busy (s := { s with crc := c }) op fc hbusy
  · exact rtuCommand_of_illegal (s := { s with crc := c }) fc hidle hargs
  · exact rtuCommand_of_legal (s := { s with crc := c }) fc hidle hargs

theorem rtuCommand_crc (op : RtuOp) (fc : BitVec 8) (s : State) : (rtuCommand op fc s).crc = s.crc := by
  rcases rtuCommand_cases op fc s with ⟨-, h⟩ | ⟨-, -, h⟩ | ⟨-, -, h⟩ <;> rw [h]
  rfl

theorem acceptCount_with_crc (n : Nat) (s : State) (c : BitVec 16) :
    acceptCount n { s with crc := c } = { acceptCount n s with crc := c } := by
  simp only [acceptCount]
  split <;> rfl

theorem txDone_with_crc (s : State) (c : BitVec 16) : txDone { s with crc := c } = { txDone s with crc := c } := by
  simp only [txDone]
  split <;> rfl

theorem completeResponse_with_crc (s : State) (c : BitVec 16) :
    completeResponse { s with crc := c } = { completeResponse s with crc := c } := by
  have hverdict : validate { s with crc := c } = validate s := rfl
  simp only [completeResponse, hverdict]
  split <;> rfl

theorem rxByte_with_crc (b : Byte) (s : State) (c : BitVec 16) :
    rxByte b { s with crc := c } = { rxByte b s with crc := c } := by
  have hstore : storeRxByte b { s with crc := c } = { storeRxByte b s with crc := c } := rfl
  simp only [rxByte, hstore, completeResponse_with_crc]
  repeat' split
  all_goals rfl

theorem tickStep_with_crc (s : State) (c : BitVec 16) :
    tickStep { s with crc := c } = { tickStep s with crc := c } := by
  have hbusy : busy { s with crc := c } = busy s := rfl
  simp only [tickStep, hbusy]
  repeat' split
  all_goals rfl

end Sys2Proof.Machine
end

section
/-! PROOF. What the codec primitives and the framer ignore (spec/41_codec.md rule R130, spec/44_rtu.md rule R222). -/

open Sys2Proof Sys2Proof.Machine

namespace Sys2Proof.Proofs

/-- Settles O27: a get computes its answer, and a set its bits, from WBUF and the FLD registers. -/
theorem codecIgnoresFramer : Obligations.CodecIgnoresFramer := by
  intro de i hi s t u h
  cases i with
  | getBit | getUns | getSgn | getTemp => cases h; rfl
  | setBit | setUns | setSgn | setTemp => cases h; exact congrArg _ (codecSet_withFramerOf ..)
  | _ => simp at hi

/-- Settles O50: each operation of the framer commutes with putting any value in CRC, and has no CRC among the fields it
can change. -/
theorem framerIgnoresHostCrc : Obligations.FramerIgnoresHostCrc := by
  refine ⟨fun i hi s t c h => ?_, fun e s t c hwrite hread hreset h => ?_⟩
  · rcases exec_rtu hi h with ⟨rfl, rfl⟩ | ⟨rfl, rfl⟩ | ⟨rfl, rfl⟩ <;>
      exact ⟨rtuCommand_crc _ _ s, congrArg _ (rtuCommand_with_crc _ _ s c)⟩
  · rcases runEvent_cases h with ⟨w, rfl, -⟩ | ⟨a, v, rfl, -⟩ | ⟨a, rfl, -⟩ | ⟨n, rfl, hoffered, hn, rfl⟩ |
      ⟨n, rfl, hother, rfl⟩ | ⟨rfl, rfl⟩ | ⟨b, rfl, rfl⟩ | ⟨rfl, rfl⟩ | ⟨rfl, -⟩
    · exact absurd rfl (hwrite _ _ _)
    · exact absurd rfl (hwrite _ _ _)
    · exact absurd rfl (hread _ _)
    · exact ⟨by rw [acceptCount_frame],
        ((if_pos hoffered).trans (if_pos hn)).trans (congrArg _ (acceptCount_with_crc n s c))⟩
    · exact ⟨rfl, if_neg hother⟩
    · exact ⟨by rw [txDone_frame], congrArg _ (txDone_with_crc s c)⟩
    · exact ⟨by rw [rxByte_frame], congrArg _ (rxByte_with_crc b s c)⟩
    · exact ⟨by rw [tickStep_frame], congrArg _ (tickStep_with_crc s c)⟩
    · exact absurd rfl hreset

end Sys2Proof.Proofs
end

section
/-! SUPPORT. The field of a view after a VIEW_SET of it, and the values each encoding answers for the bits it stored
(spec/42_views.md rules R173 to R177). -/

namespace Sys2Proof.Machine

section
variable {d : FieldDesc} {s : State} (hrow : fieldRom s.fldSel = some d) (hfits : ViewFits d s)
include hrow hfits

/-- The field of a view holds the bits a VIEW_SET stored, coupled or not (42_views R176, R177). -/
theorem viewField_viewStore (de : Bool) : viewField d (viewStore de d s) = encBits d.enc d.len s := by
  obtain ⟨hpos, -, hbit, hen6, hnz, -⟩ := fieldRows_shape _ (fieldRom_mem hrow)
  have hend := viewFits_end hfits
  have hfield : getf (viewWritten d s) s.fldBase.toNat (viewOffset d s) d.len = encBits d.enc d.len s :=
    getf_setf _ hend (encBits_lt d s hbit hen6 hnz hpos)
  change getf (viewStore de d s).wbuf s.fldBase.toNat (viewOffset d s) d.len = _
  rw [viewStore_wbuf]
  split
  · rename_i hc
    have habove := coupled_offset_of_fieldRom hrow hc s
    rw [coupleWrite, getf_setf_disjoint _ (by omega) (.inr habove), hfield]
  · exact hfield

/-- VIEW_GET after VIEW_SET answers what the encoding reads from the bits it stored (42_views R175). -/
theorem fldRes_viewGet_viewSet {de : Bool} {t u : State} (hset : exec (.viewSet de) s = .next t)
    (hget : exec .viewGet t = .next u) : u.fldRes = decodeEnc d.enc (encBits d.enc d.len s) d.len := by
  have hrange := (viewInRange_iff d s (len_pos_of_fieldRom hrow)).2 hfits
  cases (execViewSet_of_inRange de hrow hrange).symm.trans hset
  cases (execViewGet_of_row (s := viewStore de d s) hrow).symm.trans hget
  rw [← viewField_viewStore hrow hfits de]
  exact if_pos hrange

end

/-- A boolean encoding answers whether FLD_VAL was nonzero; the filter's set code is not 0 (00_scope R7). -/
theorem decodeEnc_encBits_of_boolean {e : FieldEnc} (L : Nat) {s : State} (hcode : s.params.filterSetCode ≠ 0)
    (he : e = .bit ∨ e = .en6 ∨ e = .nz) : decodeEnc e (encBits e L s) L = if s.fldVal = 0 then 0 else 1 := by
  have hcode' : s.params.filterSetCode.toNat ≠ 0 := fun h => hcode (BitVec.eq_of_toNat_eq h)
  by_cases hv : s.fldVal = 0
  · have hval : valBool s = false := bne_eq_false_iff_eq.2 hv
    rw [if_pos hv]
    rcases he with rfl | rfl | rfl <;> simp [decodeEnc, encBits, hval]
  · have hval : valBool s = true := bne_iff_ne.2 hv
    rw [if_neg hv]
    rcases he with rfl | rfl | rfl <;> simp [decodeEnc, encBits, hval, hcode']

/-- A sign-magnitude encoding answers the integer stored, when its magnitude fits. -/
theorem u32_smDecode_smEncode {v : Int} {L : Nat} (hv : v.natAbs < 2 ^ (L - 1)) :
    u32 (smDecode (smEncode v L) L) = BitVec.ofInt 32 v := by
  rw [smDecode_smEncode hv, u32]

/-- The unnamed bits of a group lie outside its fields, at every legal index, and outside the fan-control enable of the
coupled ones (42_views R171, R177, R178). -/
theorem unnamedBits_outside_fields : ∀ r ∈ fieldRows, ∀ b ∈ unnamedBits r.2.group,
    (b < r.2.off ∨ r.2.off + (if r.2.indexed then 63 else 0) + r.2.len ≤ b) ∧
    (r.2.coupled = true → b < 4 ∨ 8 ≤ b) := by decide

theorem unnamedBits_of_fieldRom {sel : BitVec 8} {d : FieldDesc} (hrow : fieldRom sel = some d) {b : Nat}
    (hb : b ∈ unnamedBits d.group) : (b < d.off ∨ d.off + (if d.indexed then 63 else 0) + d.len ≤ b) ∧
      (d.coupled = true → b < 4 ∨ 8 ≤ b) :=
  unnamedBits_outside_fields _ (fieldRom_mem hrow) b hb

/-- An unnamed bit lies outside the field a view addresses. -/
theorem unnamedBit_outside_view {d : FieldDesc} {s : State} (hrow : fieldRom s.fldSel = some d) (hfits : ViewFits d s)
    {b : Nat} (hb : b ∈ unnamedBits d.group) :
    ¬ (viewStart d s ≤ 16 * s.fldBase.toNat + b ∧ 16 * s.fldBase.toNat + b < viewStart d s + d.len) := by
  obtain ⟨houtside, -⟩ := unnamedBits_of_fieldRom hrow hb
  obtain ⟨-, -, hidx⟩ := hfits
  unfold viewStart
  split at houtside
  · rename_i hindexed
    have := hidx hindexed
    rw [if_pos hindexed]
    omega
  · rename_i hfixed
    rw [if_neg hfixed]
    omega

end Sys2Proof.Machine
end

section
/-! PROOF. A view's round trip, and the bits no view names (spec/42_views.md rules R173 to R178). -/

open Sys2Proof Sys2Proof.Machine

namespace Sys2Proof.Proofs

/-- Settles O30: VIEW_GET reads back the bits VIEW_SET stored, which each encoding decodes to the value they were made of. -/
theorem viewRoundTrip : Obligations.ViewRoundTrip := by
  intro de s t u d hp hrow hfits hset hget
  obtain ⟨-, -, -, hcode⟩ := hp
  rw [fldRes_viewGet_viewSet hrow hfits hset hget]
  refine ⟨fun he => decodeEnc_encBits_of_boolean d.len hcode he, fun he => ?_, fun he hv => ?_, fun he hv => ?_⟩ <;>
    rw [he]
  · rfl
  · exact (u32_smDecode_smEncode hv).trans BitVec.ofInt_toInt
  · rw [← rhaz10_eq_tenths] at hv ⊢
    exact u32_smDecode_smEncode hv

/-- Settles O32: no unnamed bit lies in a field of its group or in the fan-control enable of a coupled one. -/
theorem unnamedBitsUntouched : Obligations.UnnamedBitsUntouched := by
  intro de s t d hrow hset b hb
  obtain ⟨-, -, heffect⟩ := viewSetEffect
  obtain ⟨-, hrows⟩ := heffect de s
  obtain ⟨-, t', hexec, -, hin, hout⟩ := hrows d hrow
  cases hset.symm.trans hexec
  by_cases hfits : ViewFits d s
  · obtain ⟨hbits, -⟩ := hin hfits
    obtain ⟨-, henable⟩ := unnamedBits_of_fieldRom hrow hb
    have hcoupled : ¬ (d.coupled = true ∧ 16 * s.fldBase.toNat + 4 ≤ 16 * s.fldBase.toNat + b ∧
        16 * s.fldBase.toNat + b < 16 * s.fldBase.toNat + 8) := by
      rintro ⟨hc, hlow, hhigh⟩
      have := henable hc
      omega
    rw [hbits, if_neg (unnamedBit_outside_view hrow hfits hb), if_neg hcoupled]
  · obtain ⟨hkept, -⟩ := hout hfits
    rw [hkept]

end Sys2Proof.Proofs
end

section
/-! SUPPORT. The host window cell by cell: what a read finds in a buffer and what a write leaves in a register or in WBUF
(spec/10_state.md rules R20 and R42 to R45, spec/20_memory.md rule R60). -/

namespace Sys2Proof.Machine

/-! Reading the buffers -/

theorem hostLoad_wbuf {k : Nat} (hk : k < 128) (s : State) :
    hostLoad (0x100 + 4 * k) s = (Memory.read s.wbuf k).setWidth 32 := by
  have hcell : (0x100 + 4 * k - 0x100) / 4 = k := by omega
  rw [hostLoad_above_registers (by omega), bufferLoad, if_pos (by omega), hcell]

theorem hostLoad_txbuf {k : Nat} (hk : k < 256) (s : State) :
    hostLoad (0x400 + 4 * k) s = (Memory.read s.txbuf k).setWidth 32 := by
  have hcell : (0x400 + 4 * k - 0x400) / 4 = k := by omega
  rw [hostLoad_above_registers (by omega), bufferLoad, if_neg (by omega), if_pos (by omega), hcell]

theorem hostLoad_rxbuf {k : Nat} (hk : k < 256) (s : State) :
    hostLoad (0x800 + 4 * k) s = (Memory.read s.rxbuf k).setWidth 32 := by
  have hcell : (0x800 + 4 * k - 0x800) / 4 = k := by omega
  rw [hostLoad_above_registers (by omega), bufferLoad, if_neg (by omega), if_neg (by omega), if_pos (by omega), hcell]

theorem setWidth_ofBool (x : Bool) : (BitVec.ofBool x).setWidth 32 = if x = true then 1 else 0 := by
  cases x <;> rfl

/-! Writing WBUF -/

theorem hostStore_wbuf {k : Nat} (hk : k < 128) (v : Word) (s : State) :
    hostStore (0x100 + 4 * k) v s = { s with wbuf := writeWord s.wbuf k (v.setWidth 16) } := by
  have hcell : (0x100 + 4 * k - 0x100) / 4 = k := by omega
  rw [hostStore_above_registers (by omega), bufferStore, if_pos (by omega), hcell]

theorem read_writeWord (m : Memory 16) {k : Nat} (hk : k < 128) (v : RegWord) (j : Nat) :
    Memory.read (writeWord m k v) j = if j = k then v else Memory.read m j := by
  rw [writeWord, Memory.read_write]
  exact ite_congr (propext (and_iff_left hk)) (fun _ => rfl) fun _ => rfl

/-- WBUF is seen at its own offsets only (20_memory R60). -/
theorem hostLoad_with_wbuf_outside {a : Nat} (h : ¬ (0x100 ≤ a ∧ a ≤ 0x2FC)) (m : Memory 16) (s : State) :
    hostLoad a { s with wbuf := m } = hostLoad a s := by
  unfold hostLoad
  split
  rotate_right
  · rw [bufferLoad, bufferLoad, if_neg h, if_neg h]
  all_goals rfl

/-! What a write leaves for the host to read -/

/-- A write of a register is seen at its own offset only. -/
theorem hostLoad_hostStore_register {a b : Nat} (hne : a ≠ b) (hb : b ≤ 0x060) (v : Word) (s : State) :
    hostLoad a (hostStore b v s) = hostLoad a s := by
  unfold hostStore
  split
  rotate_right
  · rw [bufferStore_outside_wbuf (by omega)]
  all_goals
    unfold hostLoad
    split
  any_goals rfl
  all_goals exact absurd rfl hne

/-- A write of a word of WBUF is seen at its own offset only. -/
theorem hostLoad_hostStore_wbuf {a k : Nat} (haligned : a % 4 = 0) (hne : a ≠ 0x100 + 4 * k) (hk : k < 128) (v : Word)
    (s : State) : hostLoad a (hostStore (0x100 + 4 * k) v s) = hostLoad a s := by
  rw [hostStore_wbuf hk]
  by_cases hwbuf : 0x100 ≤ a ∧ a ≤ 0x2FC
  · obtain ⟨j, rfl⟩ : ∃ j, a = 0x100 + 4 * j := ⟨(a - 0x100) / 4, by omega⟩
    rw [hostLoad_wbuf (by omega), hostLoad_wbuf (by omega), read_writeWord _ hk, if_neg (by omega)]
  · exact hostLoad_with_wbuf_outside hwbuf _ s

/-- A value kept in `n` bits and read back is the value masked to them (10_state R20). -/
theorem setWidth_setWidth_eq_and (v : Word) (n : Nat) :
    (v.setWidth n).setWidth 32 = v &&& (BitVec.allOnes n).setWidth 32 := by
  refine BitVec.eq_of_getLsbD_eq fun i hi => ?_
  simp [hi, Bool.and_comm]

theorem hostLoad_hostStore_same (v : Word) (s : State) :
    ∀ p ∈ rwRegisters, hostLoad p.1 (hostStore p.1 v s) = v &&& p.2 := by
  simp only [rwRegisters, List.forall_mem_cons, List.not_mem_nil, false_imp_iff, implies_true, and_true]
  have hval : hostLoad 0x048 (hostStore 0x048 v s) = v &&& 0xFFFFFFFF := BitVec.and_allOnes.symm
  have hbit : BitVec.ofBool (v.getLsbD 0) = v.setWidth 1 := by
    ext i hi
    obtain rfl : i = 0 := by omega
    simp
  have hdirty : hostLoad 0x050 (hostStore 0x050 v s) = v &&& 0x1 :=
    (congrArg (BitVec.setWidth 32) hbit).trans (setWidth_setWidth_eq_and v 1)
  refine ⟨?_, ?_, ?_, ?_, ?_, ?_, ?_, ?_, ?_, ?_, hval, hdirty, ?_, ?_, ?_, ?_⟩ <;>
    exact setWidth_setWidth_eq_and v _

/-- RW registers stand at offsets below WBUF, and CMD is none of them (10_state R20). -/
theorem rwRegister_bounds : ∀ p ∈ rwRegisters, p.1 % 4 = 0 ∧ p.1 ≤ 0x060 ∧ p.1 ≠ cmdOffset := by decide

end Sys2Proof.Machine
end

section
/-! PROOF. The host's reads and writes, and the field table (spec/10_state.md rules R20, R42 to R45, spec/42_views.md
rule R171). -/

open Sys2Proof.Machine

namespace Sys2Proof.Proofs

/-- Settles O51: a RW register and a word of WBUF keep the implemented bits of a write, and each is seen at its own offset
only. -/
theorem hostWriteReadsBackMasked : Obligations.HostWriteReadsBackMasked := by
  refine ⟨fun p hp v s => ?_, fun v s => ?_⟩
  · have hstore : (p.1 % 4 = 0 ∧ p.1 ≤ 0xFFC ∧ p.1 ≠ cmdOffset) ∧ hostLoad p.1 (hostStore p.1 v s) = v &&& p.2 ∧
        ∀ a, a % 4 = 0 → a ≠ p.1 → hostLoad a (hostStore p.1 v s) = hostLoad a s := by
      rcases hp with hreg | ⟨k, hk, rfl⟩
      · obtain ⟨haligned, hlow, hcmd⟩ := rwRegister_bounds p hreg
        exact ⟨⟨haligned, by omega, hcmd⟩, hostLoad_hostStore_same v s p hreg,
          fun a _ hne => hostLoad_hostStore_register hne hlow v s⟩
      · refine ⟨⟨by omega, by omega, by unfold cmdOffset; omega⟩, ?_,
          fun a haligned hne => hostLoad_hostStore_wbuf haligned hne hk v s⟩
        rw [hostStore_wbuf hk, hostLoad_wbuf hk, read_writeWord _ hk, if_pos rfl]
        exact setWidth_setWidth_eq_and v 16
    obtain ⟨⟨haligned, hwindow, hcmd⟩, hsame, hother⟩ := hstore
    obtain ⟨hframe, -⟩ := hostStore_frame p.1 v s
    exact ⟨_, runEvent_hostWrite haligned hwindow hcmd v s, hsame, hother, by rw [hframe], by rw [hframe],
      by rw [hframe], by rw [hframe]⟩
  · refine ⟨rfl, rfl, rfl, rfl, rfl, rfl, rfl, rfl, rfl, rfl, rfl, rfl, rfl, rfl, rfl, rfl, fun k hk => ?_⟩
    have hcmd : 0x100 + 4 * k ≠ cmdOffset := by unfold cmdOffset; omega
    exact ⟨_, (runEvent_hostWrite (by omega) (by omega) hcmd v s).trans (congrArg _ (hostStore_wbuf hk v s)), rfl,
      read_writeWord _ hk _⟩

/-- Settles O53: each register and each buffer is read at offsets of its own. -/
theorem hostReadHasNoSideEffect : Obligations.HostReadHasNoSideEffect :=
  ⟨fun _ s haligned hwindow => runEvent_hostRead haligned hwindow s, fun s =>
    ⟨rfl, rfl, rfl, rfl, rfl, rfl, rfl, rfl, rfl, rfl, rfl, rfl, rfl, rfl, rfl, rfl, rfl, rfl, rfl,
      setWidth_ofBool s.fldDirty, rfl, rfl, rfl, rfl, setWidth_ofBool s.grpKind,
      fun _ hk => hostLoad_wbuf hk s, fun _ hk => hostLoad_txbuf hk s, fun _ hk => hostLoad_rxbuf hk s⟩⟩

end Sys2Proof.Proofs
end

section
/-! PROOF. The field table (spec/42_views.md rule R171). -/

open Sys2Proof.Machine

namespace Sys2Proof.Proofs

/-- Settles O31: the ids are those of the table's rows, and the rows' places are compared one by one. -/
theorem viewFieldsLieApart : Obligations.ViewFieldsLieApart := by
  refine ⟨fun sel => ?_, by decide, by decide⟩
  obtain ⟨-, -, hrows⟩ := fieldTableRows
  rw [hrows sel]
  split
  rotate_right
  · simp only [Option.isSome_none, Bool.false_eq_true, false_iff, imp_false] at *
    omega
  all_goals
    rename_i hsel
    rw [hsel]
    decide

end Sys2Proof.Proofs
end
